-- ==== Sys2Proof/Word.lean ====
section
/-! DEFINITION. The two machine word widths of the core: bytes of its byte-array registers and 32-bit bus words
(00_scope.md R6, R7; 20_memory.md R101). -/

namespace Sys2Proof

/-- One byte of a byte-array register (00_scope.md R7). -/
abbrev Byte := BitVec 8

/-- One 32-bit bus word: the width of every transaction and of a command word (10_state.md R31, 30_encoding.md R140). -/
abbrev Word := BitVec 32

end Sys2Proof
end

