-- ==== Sys2Proof/Config.lean ====
section
/-! DEFINITION. What an implementation fixes (00_scope.md R6) and the free values the spec leaves open (20_memory.md
R109). An `opaque` constant has no body: no proof can learn its value, so a theorem holds whatever it is. -/

namespace Sys2Proof.Config

/-- LAT(op) less one, for an opcode byte (00_scope.md R6, 70_reset_and_hazards.md R520: OPEN). Log 5. -/
opaque latencyLessOne : BitVec 8 → Nat

/-- LAT(op): cycles from acceptance to completion, an integer ≥ 1 that depends on the opcode alone
(00_scope.md R6, 70_reset_and_hazards.md R520). Log 5. -/
def latency (op : BitVec 8) : Nat := latencyLessOne op + 1

/-- BASE divided by 0x200 (00_scope.md R6, 20_memory.md R110: OPEN). Log 7. -/
opaque baseIndex : Nat

/-- BASE: the host byte address of the register window, a multiple of 0x200 (20_memory.md R110). Log 7. -/
def base : Nat := 0x200 * baseIndex

/-- U_MASK_BIT255: whether X_MUL ignores bit 255 of the input u-coordinate. The spec decides 1 and keeps it as a
parameter (00_scope.md R6, 92_eei_decisions.md D14): every function that reads it takes it as an argument. Log 6. -/
def uMaskBit255 : Bool := true

/-- The k-th `any` value drawn by a read of a result register in flight (00_scope.md R10, 20_memory.md R109): a
32-bit value with no law on it. Log 4. -/
opaque freeWord : Nat → Word

end Sys2Proof.Config
end

