-- ==== Sys2Proof/Syntax.lean ====
section
/-! DEFINITION. The instructions: one constructor per row of spec/opcode_table.json (30_encoding.md R143). A command is
the core's unit of execution, the analogue of an instruction (00_scope.md R12). -/

namespace Sys2Proof

/-- The thirteen commands. LEN is the only operand any of them carries (30_encoding.md R141). -/
inductive Instr where
  /-- NOP, opcode 0x00 (43_control.md R340). -/
  | nop
  /-- P_INIT, opcode 0x01 (40_poly1305.md R210). -/
  | pInit
  /-- P_ADD, opcode 0x02, with its 5-bit LEN field (40_poly1305.md R212). -/
  | pAdd (len : BitVec 5)
  /-- P_FINISH, opcode 0x03 (40_poly1305.md R214). -/
  | pFinish
  /-- X_BASE, opcode 0x10 (41_x25519.md R260). -/
  | xBase
  /-- X_MUL, opcode 0x11 (41_x25519.md R262). -/
  | xMul
  /-- F_ADD, opcode 0x20 (42_field.md R310). -/
  | fAdd
  /-- F_SUB, opcode 0x21 (42_field.md R312). -/
  | fSub
  /-- F_MUL, opcode 0x22 (42_field.md R314). -/
  | fMul
  /-- F_SQR, opcode 0x23 (42_field.md R316). -/
  | fSqr
  /-- F_INV, opcode 0x24 (42_field.md R318). -/
  | fInv
  /-- CLRERR, opcode 0xF0 (43_control.md R342). -/
  | clrErr
  /-- SRESET, opcode 0xFF (43_control.md R344). -/
  | sReset
deriving DecidableEq, Repr

end Sys2Proof
end

