-- ==== Sys2Proof/WellFormed.lean ====
section
/-! DEFINITION. Which instruction terms stand for one of the 29 legal command words (30_encoding.md R147). -/

namespace Sys2Proof

/-- The one check: P_ADD's LEN is at most 16 (30_encoding.md R141, R145). A P_ADD with a longer LEN is still a term, and
its meaning is the rejection with ERR_LEN (40_poly1305.md R212). -/
def Instr.wellFormed : Instr → Bool
  | .nop => true
  | .pInit => true
  | .pAdd len => decide (len.toNat ≤ 16)
  | .pFinish => true
  | .xBase => true
  | .xMul => true
  | .fAdd => true
  | .fSub => true
  | .fMul => true
  | .fSqr => true
  | .fInv => true
  | .clrErr => true
  | .sReset => true

end Sys2Proof
end

