-- ==== Sys2Proof/Decode.lean ====
section
/-! DEFINITION. Decoding a 32-bit command word (30_encoding.md R140 to R147), total on all 2^32 words, and the
encoder. -/

namespace Sys2Proof

/-- What a command word decodes to (30_encoding.md R145). -/
inductive Decoded where
  /-- A legal command: `Cmd(op, len)`. -/
  | cmd (i : Instr)
  /-- `BadLen`: a P_ADD word whose LEN is 17 to 31; it leads to ERR_LEN. -/
  | badLen (len : BitVec 5)
  /-- `Illegal`: undefined OP, RSV ≠ 0, or LEN ≠ 0 on an opcode other than P_ADD; it leads to ERR_ILLEGAL. -/
  | illegal
deriving DecidableEq, Repr

/-- OP = w[7:0] (30_encoding.md R140). -/
def opField (w : Word) : BitVec 8 := w.extractLsb' 0 8

/-- LEN = w[12:8] (30_encoding.md R140). -/
def lenField (w : Word) : BitVec 5 := w.extractLsb' 8 5

/-- RSV = w[31:13] (30_encoding.md R140). -/
def rsvField (w : Word) : BitVec 19 := w.extractLsb' 13 19

/-- The instruction of a defined opcode (30_encoding.md R143); `none` for an undefined OP (R144). -/
def instrOfOpcode (op : BitVec 8) (len : BitVec 5) : Option Instr :=
  match op with
  | 0x00#8 => some .nop
  | 0x01#8 => some .pInit
  | 0x02#8 => some (.pAdd len)
  | 0x03#8 => some .pFinish
  | 0x10#8 => some .xBase
  | 0x11#8 => some .xMul
  | 0x20#8 => some .fAdd
  | 0x21#8 => some .fSub
  | 0x22#8 => some .fMul
  | 0x23#8 => some .fSqr
  | 0x24#8 => some .fInv
  | 0xF0#8 => some .clrErr
  | 0xFF#8 => some .sReset
  | _ => none

/-- The decode function of 30_encoding.md R145, its checks in the rule's order. -/
def decode (w : Word) : Decoded :=
  match instrOfOpcode (opField w) (lenField w) with
  | none => .illegal
  | some i =>
    if rsvField w ≠ 0 then .illegal
    else if opField w ≠ 0x02#8 ∧ lenField w ≠ 0 then .illegal
    else if opField w = 0x02#8 ∧ 16 < (lenField w).toNat then .badLen (lenField w)
    else .cmd i

/-- The opcode byte of an instruction (30_encoding.md R143). -/
def opcode : Instr → BitVec 8
  | .nop => 0x00
  | .pInit => 0x01
  | .pAdd _ => 0x02
  | .pFinish => 0x03
  | .xBase => 0x10
  | .xMul => 0x11
  | .fAdd => 0x20
  | .fSub => 0x21
  | .fMul => 0x22
  | .fSqr => 0x23
  | .fInv => 0x24
  | .clrErr => 0xF0
  | .sReset => 0xFF

/-- The LEN field of an instruction: P_ADD's count, 0 for every other (30_encoding.md R141). -/
def lenOf : Instr → BitVec 5
  | .pAdd len => len
  | .nop | .pInit | .pFinish | .xBase | .xMul | .fAdd | .fSub | .fMul | .fSqr | .fInv | .clrErr | .sReset => 0

/-- The command word of an instruction: RSV = 0, LEN, OP (30_encoding.md R140, R147). -/
def encode (i : Instr) : Word := (0#19 ++ lenOf i) ++ opcode i

/-- The instruction a decoding names. A BadLen word is a P_ADD whose LEN is out of range (30_encoding.md R141): it
names that P_ADD, whose meaning is the rejection with ERR_LEN. An Illegal word names none. Log 13. -/
def Decoded.instr? : Decoded → Option Instr
  | .cmd i => some i
  | .badLen len => some (.pAdd len)
  | .illegal => none

/-- The instruction the decoder reads from a command word given as `nbits` bits of the number `w`, the bits above
`nbits` zero; a command is one 32-bit word (30_encoding.md R140, R146). -/
def decodeTableWord (nbits w : Nat) : Option Instr :=
  if nbits ≤ 32 then (decode (BitVec.ofNat 32 (w % 2 ^ nbits))).instr? else none

end Sys2Proof
end

