-- ==== Sys2Proof/Machine/State.lean ====
section
/-! DEFINITION. The state of the core (10_state.md): its two arithmetic units, the command engine they share, and the
pins. INVENTORY.md lists every field with its rule and reset value. -/

namespace Sys2Proof.Machine

/-- STATUS.PSTATE, the Poly1305 context state (10_state.md R40). The field value 3 is never produced, so it is no
constructor. -/
inductive PState where
  /-- 0: no context since reset. -/
  | idle
  /-- 1: a context created by P_INIT and not yet finished. -/
  | active
  /-- 2: the context was consumed by P_FINISH. -/
  | done
deriving DecidableEq, Repr

/-- STATUS.ERR, the result code of the most recently completed command (60_exceptions.md R400). Codes 4 to 15 are
never produced, so they are no constructors. -/
inductive ErrCode where
  /-- 0 OK: the command completed. -/
  | ok
  /-- 1 ERR_ILLEGAL: undefined OP, RSV ≠ 0, or LEN ≠ 0 on an opcode other than P_ADD. -/
  | illegal
  /-- 2 ERR_STATE: P_ADD or P_FINISH while PSTATE ≠ ACTIVE. -/
  | state
  /-- 3 ERR_LEN: P_ADD with LEN > 16. -/
  | len
deriving DecidableEq, Repr

/-- The internal Poly1305 registers that the spec writes `P.*` (10_state.md R56 to R59). A byte-array register is held
as a bit vector whose bits [8i+7:8i] are byte i (log 10). -/
structure PolyCtx where
  /-- P.R, the clamped multiplier (R56). -/
  r : BitVec 128
  /-- P.S, the pad (R57). -/
  s : BitVec 128
  /-- P.H, the accumulator, fully reduced modulo 2^130 − 5 (R58). -/
  h : BitVec 130
  /-- P.BUF, the partial-block buffer (R59). -/
  buf : BitVec 128
  /-- P.BUFLEN, the number of buffered bytes, 0 to 15 (R59). -/
  bufLen : BitVec 4
deriving DecidableEq, Repr

/-- The Poly1305 unit (10_state.md R40, R45 to R47, R56 to R59). -/
structure PolyUnit where
  /-- PKEY, 32 bytes (R45). -/
  pkey : BitVec 256
  /-- PDATA, 16 bytes (R46). -/
  pdata : BitVec 128
  /-- PTAG, 16 bytes (R47). -/
  ptag : BitVec 128
  /-- P.R, P.S, P.H, P.BUF and P.BUFLEN. -/
  ctx : PolyCtx
  /-- PSTATE (R40). -/
  pstate : PState
deriving DecidableEq, Repr

/-- The Curve25519 and field unit (10_state.md R50 to R55). -/
structure CurveUnit where
  /-- XSCALAR, 32 bytes (R50). -/
  xscalar : BitVec 256
  /-- XU, 32 bytes (R51). -/
  xu : BitVec 256
  /-- XOUT, 32 bytes (R52). -/
  xout : BitVec 256
  /-- FA, 32 bytes (R53). -/
  fa : BitVec 256
  /-- FB, 32 bytes (R54). -/
  fb : BitVec 256
  /-- FR, 32 bytes (R55). -/
  fr : BitVec 256
deriving DecidableEq, Repr

/-- An accepted long command with its snapshot: op and the registers that command reads, as they were at acceptance
(10_state.md R60; the "reads" column of 30_encoding.md R143; R161). -/
inductive Job where
  | pInit (pkey : BitVec 256)
  | pAdd (len : BitVec 5) (pdata : BitVec 128) (ctx : PolyCtx)
  | pFinish (ctx : PolyCtx)
  | xBase (xscalar : BitVec 256)
  | xMul (xscalar xu : BitVec 256)
  | fAdd (fa fb : BitVec 256)
  | fSub (fa fb : BitVec 256)
  | fMul (fa fb : BitVec 256)
  | fSqr (fa : BitVec 256)
  | fInv (fa : BitVec 256)
deriving DecidableEq, Repr

/-- The in-flight record (10_state.md R60). -/
structure InFlight where
  /-- op and snapshot. -/
  job : Job
  /-- The number of cycles left before completion, from LAT(op) down to 1. -/
  remaining : Nat
deriving DecidableEq, Repr

/-- The command engine, the only state the two units share (10_state.md R62). -/
structure Engine where
  /-- INFLIGHT (R60). -/
  inflight : Option InFlight
  /-- STATUS.ERR (R39). -/
  err : ErrCode
  /-- STATUS.ERRS, sticky (R37). -/
  errs : Bool
  /-- STATUS.OVR, sticky (R38). -/
  ovr : Bool
  /-- CTRL.IE (R43). -/
  ie : Bool
  /-- INTSTAT.DONE (R44). -/
  done : Bool
deriving DecidableEq, Repr

/-- The access width of a transaction: 1, 2 or 4 bytes (20_memory.md R101). -/
inductive AccessSize where
  | byte
  | half
  | word
deriving DecidableEq, Repr

/-- A host transaction at a 9-bit byte offset from BASE (20_memory.md R101; ports of 92_eei_decisions.md D1). -/
inductive Transaction where
  /-- BusRead(off, size). -/
  | read (off : BitVec 9) (size : AccessSize)
  /-- BusWrite(off, size, w). -/
  | write (off : BitVec 9) (size : AccessSize) (w : Word)
deriving DecidableEq, Repr

/-- What can arrive at the core's pins (92_eei_decisions.md D1). Log 1, log 2. -/
inductive PortEvent where
  /-- A host transaction on the register bus. -/
  | bus (t : Transaction)
  /-- One cycle of `clk` with no transaction in it. -/
  | clock
  /-- As many idle cycles of `clk` as the command in flight still needs: the engine's completion step comes next
  (30_encoding.md R162). -/
  | elapse
  /-- `rst_n` goes low (70_reset_and_hazards.md R500). -/
  | resetAssert
  /-- `rst_n` goes high. -/
  | resetRelease
deriving DecidableEq, Repr

/-- The response to a performed transaction (20_memory.md R101). A bus error is a fault and needs no constructor. -/
inductive Response where
  /-- Read data. -/
  | data (w : Word)
  /-- A write's OK response. -/
  | ok
deriving DecidableEq, Repr

/-- The pins, and the model's own record of the outside world (no register of the spec; log 1, log 3, log 4). -/
structure Port where
  /-- Whether `rst_n` is asserted (70_reset_and_hazards.md R500). -/
  inReset : Bool
  /-- The events still to arrive, in arrival order (20_memory.md R112). -/
  pending : List PortEvent
  /-- The bus response of the last step, if it performed a transaction. -/
  response : Option Response
  /-- How many `any` values have been drawn (20_memory.md R109). -/
  draws : Nat
deriving DecidableEq, Repr

/-- The whole machine. -/
structure State where
  poly : PolyUnit
  curve : CurveUnit
  engine : Engine
  port : Port
deriving DecidableEq, Repr

/-- Why a step stops. -/
inductive Fault where
  /-- A transaction with a size other than 4, a misaligned offset or a reserved offset (20_memory.md R105): the host
  gets an error response and no state changes; "A model treats a bus error as a fault of the host program"
  (60_exceptions.md R404). Raised by `busRead` and `busWrite`. Safe: the model stops where the core goes on. Log 8. -/
  | busError (off : BitVec 9)
  /-- A transaction while `rst_n` is asserted: it "has no step in the model (stuck)" (70_reset_and_hazards.md R500).
  Raised by `portEvent`. Safe: the platform must not issue one. Log 9. -/
  | transactionInReset
deriving DecidableEq, Repr

/-- Why an instruction has no meaning. -/
inductive Refusal where
  /-- An instruction whose arm of `exec` gives it no meaning yet. No arm does: raised by nothing. Safe. -/
  | notModelled (mnemonic : String)
deriving DecidableEq, Repr

/-- P.* at reset: all zero (10_state.md R63). -/
def PolyCtx.cleared : PolyCtx := { r := 0, s := 0, h := 0, buf := 0, bufLen := 0 }

/-- The machine right after hardware reset: the table of 10_state.md R63, `rst_n` released (70_reset_and_hazards.md
R500), nothing waiting at the port (log 1). -/
def State.reset : State where
  poly := { pkey := 0, pdata := 0, ptag := 0, ctx := PolyCtx.cleared, pstate := .idle }
  curve := { xscalar := 0, xu := 0, xout := 0, fa := 0, fb := 0, fr := 0 }
  engine := { inflight := none, err := .ok, errs := false, ovr := false, ie := false, done := false }
  port := { inReset := false, pending := [], response := none, draws := 0 }

end Sys2Proof.Machine
end

