-- ==== Sys2Proof/Machine/Flags.lean ====
section
/-! DEFINITION. The flags: STATUS (10_state.md R35 to R42), CTRL and INTSTAT as read (R43, R44), and the interrupt
output (60_exceptions.md R410). -/

namespace Sys2Proof.Machine

/-- The field value of PSTATE (10_state.md R40). -/
def PState.code : PState → BitVec 2
  | .idle => 0
  | .active => 1
  | .done => 2

/-- The field value of ERR (60_exceptions.md R400). -/
def ErrCode.code : ErrCode → BitVec 4
  | .ok => 0
  | .illegal => 1
  | .state => 2
  | .len => 3

/-- STATUS.BUSY: 1 exactly when INFLIGHT ≠ NONE (10_state.md R36, R60). -/
def isBusy (s : State) : Bool := s.engine.inflight.isSome

/-- The STATUS word: [31:20] 0, [19:16] PBUFLEN, [15:10] 0, [9:8] PSTATE, [7:4] ERR, [3] 0, [2] OVR, [1] ERRS,
[0] BUSY (10_state.md R35, R41, R42). -/
def statusWord (s : State) : Word :=
  0#12 ++ s.poly.ctx.bufLen ++ 0#6 ++ s.poly.pstate.code ++ s.engine.err.code ++ 0#1 ++ BitVec.ofBool s.engine.ovr
    ++ BitVec.ofBool s.engine.errs ++ BitVec.ofBool (isBusy s)

/-- The CTRL word: [0] IE, [31:1] read 0 (10_state.md R43). -/
def ctrlWord (s : State) : Word := (BitVec.ofBool s.engine.ie).setWidth 32

/-- The INTSTAT word: [0] DONE, [31:1] read 0 (10_state.md R44). -/
def intstatWord (s : State) : Word := (BitVec.ofBool s.engine.done).setWidth 32

/-- The `irq` output: CTRL.IE AND INTSTAT.DONE, level, active high (60_exceptions.md R410). -/
def irqLine (s : State) : Bool := s.engine.ie && s.engine.done

end Sys2Proof.Machine
end

