-- ==== Sys2Proof/Machine/Operands.lean ====
section
/-! DEFINITION. Operand forms: byte arrays and their integers (00_scope.md R8), byte lanes of bus words (20_memory.md
R102, R103), and how each command reads its operand registers (40_poly1305.md R201, R202; 41_x25519.md R251, R252;
42_field.md R306). -/

namespace Sys2Proof.Machine

/-! ### Constants (00_scope.md R9) -/

/-- p1305 = 2^130 − 5. -/
def p1305 : Nat := 2 ^ 130 - 5

/-- p25519 = 2^255 − 19. -/
def p25519 : Nat := 2 ^ 255 - 19

/-- CLAMP_R, the standard Poly1305 clamping mask (00_scope.md R9; 90_conflicts.md C1). Log 12. -/
def clampMask : BitVec 128 := 0x0ffffffc0ffffffc0ffffffc0fffffff#128

/-- A24, the ladder constant (00_scope.md R9). Log 12. -/
def a24 : Nat := 121665

/-! ### Byte arrays (00_scope.md R7, R8, R10) -/

/-- `X[i]`: byte i of a byte-array register held as a bit vector (00_scope.md R10). Log 10. -/
def byteAt {w : Nat} (x : BitVec w) (i : Nat) : Byte := x.extractLsb' (8 * i) 8

/-- `X` with byte i replaced. -/
def setByte {w : Nat} (x : BitVec w) (i : Nat) (b : Byte) : BitVec w :=
  (x &&& ~~~((0xFF#8).setWidth w <<< (8 * i))) ||| (b.setWidth w <<< (8 * i))

/-- The first `n` bytes of a register, `X[0..n−1]`, byte 0 first. -/
def bytesOf {w : Nat} (x : BitVec w) (n : Nat) : List Byte := (List.range n).map (byteAt x)

/-- `LE(b)` = Σ b[i]·2^(8i) (00_scope.md R8). -/
def leNat : List Byte → Nat
  | [] => 0
  | b :: bs => b.toNat + 256 * leNat bs

/-- A byte array as a register of `w` bits, zero bytes filling it up (`LEbytes` of its integer, 00_scope.md R8). -/
def ofBytes (w : Nat) (bs : List Byte) : BitVec w := BitVec.ofNat w (leNat bs)

/-! ### Byte lanes of bus words -/

/-- `word(X, k)`: bits [32k+31:32k], that is bytes X[4k..4k+3] (20_memory.md R102), and PACCk, PRk (R103). Bits above
the register's width read 0. -/
def wordOf {w : Nat} (x : BitVec w) (k : Nat) : Word := x.extractLsb' (32 * k) 32

/-- A write of `v` to word k sets X[4k+j] to v[8j+7:8j] for j = 0..3 (20_memory.md R102). -/
def setWordOf {w : Nat} (x : BitVec w) (k : Nat) (v : Word) : BitVec w :=
  setByte (setByte (setByte (setByte x (4 * k) (byteAt v 0)) (4 * k + 1) (byteAt v 1)) (4 * k + 2) (byteAt v 2))
    (4 * k + 3) (byteAt v 3)

/-! ### Command operands -/

/-- The clamped multiplier of a key: LE(k[0..15]) AND CLAMP_R (40_poly1305.md R201). -/
def clampR (key : BitVec 256) : BitVec 128 := ofBytes 128 ((bytesOf key 32).take 16) &&& clampMask

/-- The pad of a key: LE(k[16..31]) (40_poly1305.md R202). -/
def padOf (key : BitVec 256) : BitVec 128 := ofBytes 128 ((bytesOf key 32).drop 16)

/-- The bytes P_ADD works on: P.BUF[0..BUFLEN−1] ++ PDATA[0..LEN−1] (40_poly1305.md R212). -/
def addBytes (ctx : PolyCtx) (pdata : BitVec 128) (len : BitVec 5) : List Byte :=
  bytesOf ctx.buf ctx.bufLen.toNat ++ bytesOf pdata len.toNat

/-- Scalar clamping, on a copy (41_x25519.md R251). The scalar n is the result's integer value. -/
def clampScalar (a : BitVec 256) : BitVec 256 :=
  let k := setByte a 0 (byteAt a 0 &&& 0xF8)
  let k := setByte k 31 (byteAt k 31 &&& 0x7F)
  setByte k 31 (byteAt k 31 ||| 0x40)

/-- Input u-coordinate decoding, with U_MASK_BIT255 as an argument (41_x25519.md R252). Log 6. -/
def decodeU (maskBit255 : Bool) (u : BitVec 256) : Nat :=
  (if maskBit255 then u.toNat &&& (2 ^ 255 - 1) else u.toNat) % p25519

/-- A field command's operand: the full 256-bit integer, reduced (42_field.md R306). -/
def fieldOperand (x : BitVec 256) : Nat := x.toNat % p25519

/-- LEbytes_32 of a field element: the canonical encoding (42_field.md R300, 41_x25519.md R253). -/
def fieldBytes (x : Nat) : BitVec 256 := BitVec.ofNat 256 x

end Sys2Proof.Machine
end

