-- ==== Sys2Proof/Machine/Ops.lean ====
section
/-! DEFINITION. The operations every command shares: acceptance (30_encoding.md R161), rejection, which is the core's
"trap entry" (60_exceptions.md R401, R405), the dropped write (10_state.md R61) and reset (10_state.md R63). The core has
no return from a trap (60_exceptions.md R406): CLRERR acknowledges an error. -/

namespace Sys2Proof.Machine

/-- The command of a job, the op of the in-flight record (10_state.md R60). -/
def Job.instr : Job → Instr
  | .pInit _ => .pInit
  | .pAdd len _ _ => .pAdd len
  | .pFinish _ => .pFinish
  | .xBase _ => .xBase
  | .xMul _ _ => .xMul
  | .fAdd _ _ => .fAdd
  | .fSub _ _ => .fSub
  | .fMul _ _ => .fMul
  | .fSqr _ => .fSqr
  | .fInv _ => .fInv

/-- LAT(op) of a job: it depends on the opcode alone (70_reset_and_hazards.md R520). -/
def Job.latency (j : Job) : Nat := Config.latency (opcode j.instr)

/-- A host write dropped because the core is busy: OVR and ERRS are set, nothing else changes (10_state.md R61, R38,
R37). -/
def dropWrite (s : State) : State := { s with engine := { s.engine with ovr := true, errs := true } }

/-- Rejection, the core's one exception entry: ERR ← code, ERRS ← 1, DONE ← 1, nothing else (60_exceptions.md R401,
R405). -/
def completeRejected (code : ErrCode) (s : State) : State :=
  { s with engine := { s.engine with err := code, errs := true, done := true } }

/-- Acceptance of a long command with its snapshot: INFLIGHT ← (d, snap, LAT(d.op)), nothing else (30_encoding.md
R161). -/
def accept (j : Job) (s : State) : State :=
  { s with engine := { s.engine with inflight := some { job := j, remaining := j.latency } } }

/-- A command reaches the engine: it is dropped while INFLIGHT ≠ NONE (10_state.md R61; the first check of
60_exceptions.md R402), issued otherwise (30_encoding.md R160). Log 14. -/
def unlessBusy (issue : State → State) (s : State) : State := if isBusy s then dropWrite s else issue s

/-- The context check of P_ADD and P_FINISH: rejected with ERR_STATE while PSTATE ≠ ACTIVE (30_encoding.md R160,
40_poly1305.md R215). -/
def whenActive (issue : State → State) (s : State) : State :=
  if s.poly.pstate = .active then issue s else completeRejected .state s

/-- Every piece of state takes its reset value, by hardware reset or SRESET (10_state.md R63, 43_control.md R344,
70_reset_and_hazards.md R501). The pins and the model's own fields are not state of the core (log 1, log 4). -/
def resetCore (s : State) : State := { State.reset with port := s.port }

end Sys2Proof.Machine
end

