-- ==== Sys2Proof/Machine/Poly1305.lean ====
section
/-! DEFINITION. The Poly1305 unit (40_poly1305.md): its arithmetic as exact integers (R200), and P_INIT, P_ADD and
P_FINISH, each as what it does when the command word arrives and as its effect at completion. -/

namespace Sys2Proof.Machine

/-! ### Arithmetic -/

/-- poly_block(h, r, c) = ((h + c)·r) mod p1305 (40_poly1305.md R203). -/
def polyBlock (h r c : Nat) : Nat := ((h + c) * r) % p1305

/-- The value of a full 16-byte block: LE(b) + 2^128 (40_poly1305.md R204). -/
def fullBlock (b : List Byte) : Nat := leNat b + 2 ^ 128

/-- The value of the message's final partial block of n bytes: LE(b) + 2^(8n) (40_poly1305.md R205). -/
def partialBlock (b : List Byte) : Nat := leNat b + 2 ^ (8 * b.length)

/-- tag(h, s) = LEbytes_16((h + s) mod 2^128) (40_poly1305.md R206). -/
def polyTag (h s : Nat) : BitVec 128 := BitVec.ofNat 128 ((h + s) % 2 ^ 128)

/-- The accumulator after the first `q` full blocks of a message (the loop of 40_poly1305.md R207). -/
def macBlocks (r : Nat) (m : List Byte) (q : Nat) : Nat :=
  (List.range q).foldl (fun h i => polyBlock h r (fullBlock ((m.drop (16 * i)).take 16))) 0

/-- The MAC of a message under a 32-byte key (40_poly1305.md R207). -/
def polyMac (key : BitVec 256) (m : List Byte) : BitVec 128 :=
  let r := (clampR key).toNat
  let h := macBlocks r m (m.length / 16)
  let t := m.drop (16 * (m.length / 16))
  polyTag (if t = [] then h else polyBlock h r (partialBlock t)) (padOf key).toNat

/-! ### Effects at completion -/

/-- effect_P_INIT (40_poly1305.md R210). -/
def effectPInit (pkey : BitVec 256) (s : State) : State :=
  { s with poly := { s.poly with
      ctx := { r := clampR pkey, s := padOf pkey, h := 0, buf := 0, bufLen := 0 }
      pstate := .active } }

/-- P.H after P_ADD of `bytes` (40_poly1305.md R212): a full block is processed when 16 bytes are there. -/
def addH (ctx : PolyCtx) (bytes : List Byte) : BitVec 130 :=
  if 16 ≤ bytes.length then
    BitVec.ofNat 130 (polyBlock ctx.h.toNat ctx.r.toNat (fullBlock (bytes.take 16)))
  else ctx.h

/-- The bytes P_ADD leaves in the buffer (40_poly1305.md R212). -/
def addRest (bytes : List Byte) : List Byte := if 16 ≤ bytes.length then bytes.drop 16 else bytes

/-- effect_P_ADD (40_poly1305.md R212): it writes P.H, P.BUF and P.BUFLEN. Log 11. -/
def effectPAdd (len : BitVec 5) (pdata : BitVec 128) (ctx : PolyCtx) (s : State) : State :=
  let bytes := addBytes ctx pdata len
  { s with poly := { s.poly with ctx := { s.poly.ctx with
      h := addH ctx bytes
      buf := ofBytes 128 (addRest bytes)
      bufLen := BitVec.ofNat 4 (addRest bytes).length } } }

/-- The accumulator P_FINISH makes the tag of: the buffered bytes, if any, are the message's final partial block
(40_poly1305.md R214). -/
def finishH (ctx : PolyCtx) : Nat :=
  if ctx.bufLen = 0 then ctx.h.toNat
  else polyBlock ctx.h.toNat ctx.r.toNat (partialBlock (bytesOf ctx.buf ctx.bufLen.toNat))

/-- effect_P_FINISH (40_poly1305.md R214): the tag from the latched pad, the context discarded. -/
def effectPFinish (ctx : PolyCtx) (s : State) : State :=
  { s with poly := { s.poly with
      ptag := polyTag (finishH ctx) ctx.s.toNat
      ctx := PolyCtx.cleared
      pstate := .done } }

/-! ### The commands -/

/-- P_INIT (40_poly1305.md R210): legal in every PSTATE. -/
def execPInit (s : State) : Host.Outcome State Fault Refusal :=
  .next (unlessBusy (fun s => accept (.pInit s.poly.pkey) s) s)

/-- P_ADD (40_poly1305.md R212): the length check comes before the state check (60_exceptions.md R402). -/
def execPAdd (len : BitVec 5) (s : State) : Host.Outcome State Fault Refusal :=
  .next (unlessBusy
    (fun s =>
      if 16 < len.toNat then completeRejected .len s
      else whenActive (fun s => accept (.pAdd len s.poly.pdata s.poly.ctx) s) s) s)

/-- P_FINISH (40_poly1305.md R214). -/
def execPFinish (s : State) : Host.Outcome State Fault Refusal :=
  .next (unlessBusy (whenActive fun s => accept (.pFinish s.poly.ctx) s) s)

end Sys2Proof.Machine
end

