-- ==== Sys2Proof/Machine/Field.lean ====
section
/-! DEFINITION. GF(2^255 − 19) (42_field.md): the field functions as exact integers, and F_ADD, F_SUB, F_MUL, F_SQR and
F_INV, each as what it does when the command word arrives and as its effect at completion. -/

namespace Sys2Proof.Machine

/-! ### Field functions -/

/-- fe_add (42_field.md R301). -/
def feAdd (a b : Nat) : Nat := (a + b) % p25519

/-- fe_sub, the mathematical remainder in [0, p25519) (42_field.md R302). -/
def feSub (a b : Nat) : Nat := (((a : Int) - (b : Int)) % (p25519 : Int)).toNat

/-- fe_mul (42_field.md R303). -/
def feMul (a b : Nat) : Nat := (a * b) % p25519

/-- fe_sqr (42_field.md R304). -/
def feSqr (a : Nat) : Nat := (a * a) % p25519

/-- a^e mod p25519 by squaring, for an exponent below 2^bits. -/
def fePow : (bits : Nat) → (a e : Nat) → Nat
  | 0, _, _ => 1
  | bits + 1, a, e => if e % 2 = 1 then feMul a (fePow bits (feSqr a) (e / 2)) else fePow bits (feSqr a) (e / 2)

/-- fe_inv(a) = a^(p25519 − 2) mod p25519 (42_field.md R305); p25519 − 2 is below 2^255. -/
def feInv (a : Nat) : Nat := fePow 255 a (p25519 - 2)

/-! ### Effects at completion -/

/-- A field command's effect: its result, encoded canonically, goes to FR and nowhere else (42_field.md R300, R310 to
R318; 10_state.md R62). -/
def writeFR (x : Nat) (s : State) : State := { s with curve := { s.curve with fr := fieldBytes x } }

/-- F_ADD's effect (42_field.md R310). -/
def effectFAdd (fa fb : BitVec 256) (s : State) : State := writeFR (feAdd (fieldOperand fa) (fieldOperand fb)) s

/-- F_SUB's effect (42_field.md R312). -/
def effectFSub (fa fb : BitVec 256) (s : State) : State := writeFR (feSub (fieldOperand fa) (fieldOperand fb)) s

/-- F_MUL's effect (42_field.md R314). -/
def effectFMul (fa fb : BitVec 256) (s : State) : State := writeFR (feMul (fieldOperand fa) (fieldOperand fb)) s

/-- F_SQR's effect; FB is not read (42_field.md R316). -/
def effectFSqr (fa : BitVec 256) (s : State) : State := writeFR (feSqr (fieldOperand fa)) s

/-- F_INV's effect; FB is not read (42_field.md R318). -/
def effectFInv (fa : BitVec 256) (s : State) : State := writeFR (feInv (fieldOperand fa)) s

/-! ### The commands: legal in every PSTATE (42_field.md section 2) -/

/-- F_ADD (42_field.md R310). -/
def execFAdd (s : State) : Host.Outcome State Fault Refusal :=
  .next (unlessBusy (fun s => accept (.fAdd s.curve.fa s.curve.fb) s) s)

/-- F_SUB (42_field.md R312). -/
def execFSub (s : State) : Host.Outcome State Fault Refusal :=
  .next (unlessBusy (fun s => accept (.fSub s.curve.fa s.curve.fb) s) s)

/-- F_MUL (42_field.md R314). -/
def execFMul (s : State) : Host.Outcome State Fault Refusal :=
  .next (unlessBusy (fun s => accept (.fMul s.curve.fa s.curve.fb) s) s)

/-- F_SQR (42_field.md R316). -/
def execFSqr (s : State) : Host.Outcome State Fault Refusal :=
  .next (unlessBusy (fun s => accept (.fSqr s.curve.fa) s) s)

/-- F_INV (42_field.md R318). -/
def execFInv (s : State) : Host.Outcome State Fault Refusal :=
  .next (unlessBusy (fun s => accept (.fInv s.curve.fa) s) s)

end Sys2Proof.Machine
end

