-- ==== Sys2Proof/Machine/X25519.lean ====
section
/-! DEFINITION. Curve25519 scalar multiplication (41_x25519.md): the Montgomery ladder over the field functions of
42_field.md, and X_BASE and X_MUL. The ladder's formulas are the spec's (R256, R257; log 12). -/

namespace Sys2Proof.Machine

/-! ### The ladder -/

/-- The two working points (x2 : z2), (x3 : z3) and the pending swap (41_x25519.md R257). -/
structure Ladder where
  x2 : Nat
  z2 : Nat
  x3 : Nat
  z3 : Nat
  swap : Bool
deriving DecidableEq, Repr

/-- The masked conditional swap (41_x25519.md R255): mask = 0 − swap in 256 bits. -/
def cswap (swap : Bool) (a b : Nat) : Nat × Nat :=
  let mask := (0#256 - (BitVec.ofBool swap).setWidth 256).toNat
  let dummy := mask &&& (a ^^^ b)
  (a ^^^ dummy, b ^^^ dummy)

/-- Both coordinates of the two points through `cswap` (41_x25519.md R257). -/
def swapPoints (swap : Bool) (l : Ladder) : Ladder :=
  let x := cswap swap l.x2 l.x3
  let z := cswap swap l.z2 l.z3
  { l with x2 := x.1, x3 := x.2, z2 := z.1, z3 := z.2 }

/-- ladder_step (41_x25519.md R256), with the rule's own names A, AA, B, BB, E, C, D, DA, CB in lower case. -/
def ladderStep (x1 : Nat) (l : Ladder) : Ladder :=
  let a := feAdd l.x2 l.z2
  let aa := feSqr a
  let b := feSub l.x2 l.z2
  let bb := feSqr b
  let e := feSub aa bb
  let c := feAdd l.x3 l.z3
  let d := feSub l.x3 l.z3
  let da := feMul d a
  let cb := feMul c b
  { l with
    x3 := feSqr (feAdd da cb)
    z3 := feMul x1 (feSqr (feSub da cb))
    x2 := feMul aa bb
    z2 := feMul e (feAdd aa (feMul a24 e)) }

/-- One iteration, for the scalar bit k_t (41_x25519.md R257). -/
def ladderIter (x1 : Nat) (kt : Bool) (l : Ladder) : Ladder :=
  ladderStep x1 { swapPoints (l.swap ^^ kt) l with swap := kt }

/-- The iterations for bits t−1 down to 0 of the scalar (41_x25519.md R257). -/
def ladderLoop (n : BitVec 256) (x1 : Nat) : Nat → Ladder → Ladder
  | 0, l => l
  | t + 1, l => ladderLoop n x1 t (ladderIter x1 (n.getLsbD t) l)

/-- (x2 : z2) = (1 : 0), (x3 : z3) = (x1 : 1), swap = 0 (41_x25519.md R257). -/
def ladderInit (x1 : Nat) : Ladder := { x2 := 1, z2 := 0, x3 := x1, z3 := 1, swap := false }

/-- X25519(a, u) (41_x25519.md R257): exactly 255 iterations, then x2 · z2^(p−2). U_MASK_BIT255 is an argument. -/
def x25519 (maskBit255 : Bool) (a u : BitVec 256) : BitVec 256 :=
  let x1 := decodeU maskBit255 u
  let l := ladderLoop (clampScalar a) x1 255 (ladderInit x1)
  let l := swapPoints l.swap l
  fieldBytes (feMul l.x2 (feInv l.z2))

/-! ### Effects at completion -/

/-- The result goes to XOUT and nowhere else (41_x25519.md R260, R262; 10_state.md R62). -/
def writeXOut (x : BitVec 256) (s : State) : State := { s with curve := { s.curve with xout := x } }

/-- effect_X_BASE: the base point has u = 9; XU is not read (41_x25519.md R254, R260). -/
def effectXBase (xscalar : BitVec 256) (s : State) : State :=
  writeXOut (x25519 Config.uMaskBit255 xscalar (fieldBytes 9)) s

/-- effect_X_MUL (41_x25519.md R262). -/
def effectXMul (xscalar xu : BitVec 256) (s : State) : State :=
  writeXOut (x25519 Config.uMaskBit255 xscalar xu) s

/-! ### The commands: legal in every PSTATE, no operand value rejected (41_x25519.md R260 to R263) -/

/-- X_BASE (41_x25519.md R260). -/
def execXBase (s : State) : Host.Outcome State Fault Refusal :=
  .next (unlessBusy (fun s => accept (.xBase s.curve.xscalar) s) s)

/-- X_MUL (41_x25519.md R262). -/
def execXMul (s : State) : Host.Outcome State Fault Refusal :=
  .next (unlessBusy (fun s => accept (.xMul s.curve.xscalar s.curve.xu) s) s)

end Sys2Proof.Machine
end

