-- ==== Sys2Proof/Machine/Complete.lean ====
section
/-! DEFINITION. The command engine's own step: completion (30_encoding.md R162, R163), and the passing of time towards
it (10_state.md R60, 70_reset_and_hazards.md R520). -/

namespace Sys2Proof.Machine

/-- effect_op: a total function of the snapshot and LEN (30_encoding.md R163). -/
def effectOf (j : Job) (s : State) : State :=
  match j with
  | .pInit pkey => effectPInit pkey s
  | .pAdd len pdata ctx => effectPAdd len pdata ctx s
  | .pFinish ctx => effectPFinish ctx s
  | .xBase xscalar => effectXBase xscalar s
  | .xMul xscalar xu => effectXMul xscalar xu s
  | .fAdd fa fb => effectFAdd fa fb s
  | .fSub fa fb => effectFSub fa fb s
  | .fMul fa fb => effectFMul fa fb s
  | .fSqr fa => effectFSqr fa s
  | .fInv fa => effectFInv fa s

/-- ERR ← 0, DONE ← 1, INFLIGHT ← NONE (30_encoding.md R163). -/
def retire (s : State) : State :=
  { s with engine := { s.engine with err := .ok, done := true, inflight := none } }

/-- complete(): the effect of the command in flight and its retirement, at once (30_encoding.md R163); nothing where
none is in flight. -/
def complete (s : State) : State :=
  match s.engine.inflight with
  | none => s
  | some f => retire (effectOf f.job s)

/-- One clock cycle: the last one completes the command, an earlier one counts `remaining` down (10_state.md R60,
70_reset_and_hazards.md R520). -/
def clockTick (s : State) : State :=
  match s.engine.inflight with
  | none => s
  | some f =>
    if f.remaining ≤ 1 then complete s
    else { s with engine := { s.engine with inflight := some { f with remaining := f.remaining - 1 } } }

/-- All the cycles the command in flight still needs: its completion (30_encoding.md R162). -/
def elapse (s : State) : State := complete s

end Sys2Proof.Machine
end

