-- ==== Sys2Proof/Machine/Control.lean ====
section
/-! DEFINITION. The control commands (43_control.md): they complete at issue and never set BUSY. -/

namespace Sys2Proof.Machine

/-- ERR ← 0, DONE ← 1 (43_control.md R340). -/
def performNop (s : State) : State := { s with engine := { s.engine with err := .ok, done := true } }

/-- ERR, ERRS, OVR ← 0, DONE ← 1 (43_control.md R342). -/
def performClrErr (s : State) : State :=
  { s with engine := { s.engine with err := .ok, errs := false, ovr := false, done := true } }

/-- NOP (43_control.md R340). -/
def execNop (s : State) : Host.Outcome State Fault Refusal := .next (unlessBusy performNop s)

/-- CLRERR (43_control.md R342). -/
def execClrErr (s : State) : Host.Outcome State Fault Refusal := .next (unlessBusy performClrErr s)

/-- SRESET (43_control.md R344): every piece of state takes its reset value, DONE and IE among them. -/
def execSReset (s : State) : Host.Outcome State Fault Refusal := .next (unlessBusy resetCore s)

end Sys2Proof.Machine
end

