-- ==== Sys2Proof/Machine/Dispatch.lean ====
section
/-! DEFINITION. One arm per instruction: what happens when the command word of that instruction is written to CMD
(30_encoding.md R160). -/

namespace Sys2Proof.Machine

def exec (i : Instr) (s : State) : Host.Outcome State Fault Refusal :=
  match i with
  | .nop => Sys2Proof.Machine.execNop s
  | .pInit => Sys2Proof.Machine.execPInit s
  | .pAdd len => Sys2Proof.Machine.execPAdd len s
  | .pFinish => Sys2Proof.Machine.execPFinish s
  | .xBase => Sys2Proof.Machine.execXBase s
  | .xMul => Sys2Proof.Machine.execXMul s
  | .fAdd => Sys2Proof.Machine.execFAdd s
  | .fSub => Sys2Proof.Machine.execFSub s
  | .fMul => Sys2Proof.Machine.execFMul s
  | .fSqr => Sys2Proof.Machine.execFSqr s
  | .fInv => Sys2Proof.Machine.execFInv s
  | .clrErr => Sys2Proof.Machine.execClrErr s
  | .sReset => Sys2Proof.Machine.execSReset s

end Sys2Proof.Machine
end

