-- ==== Sys2Proof/Machine/Bus.lean ====
section
/-! DEFINITION. The register window (10_state.md R31, R32) and the two bus transactions (20_memory.md R101 to R109),
the write to CMD that issues a command among them; and the events at the pins (log 1). -/

namespace Sys2Proof.Machine

/-! ### The register map -/

/-- The registers of 10_state.md R31. -/
inductive Reg where
  | id | cmd | status | ctrl | intstat
  | pkey | pdata | ptag | pacc | pr
  | xscalar | xu | xout | fa | fb | fr
deriving DecidableEq, Repr

/-- Access classes (10_state.md R32). -/
inductive Access where
  /-- Read only: a write is ignored, with no error. -/
  | ro
  /-- Write only: a read returns 0. -/
  | wo
  /-- Read and write. -/
  | rw
  /-- Read, write one to clear. -/
  | rw1c
deriving DecidableEq, Repr

/-- One row of the register map. -/
structure MapRow where
  offset : Nat
  reg : Reg
  words : Nat
  access : Access
deriving DecidableEq, Repr

/-- The register map, row by row (10_state.md R31); offsets in no row are reserved. -/
def registerMap : List MapRow :=
  [ ⟨0x000, .id, 1, .ro⟩, ⟨0x004, .cmd, 1, .wo⟩, ⟨0x008, .status, 1, .ro⟩, ⟨0x00C, .ctrl, 1, .rw⟩,
    ⟨0x010, .intstat, 1, .rw1c⟩, ⟨0x020, .pkey, 8, .rw⟩, ⟨0x040, .pdata, 4, .rw⟩, ⟨0x050, .ptag, 4, .ro⟩,
    ⟨0x060, .pacc, 5, .ro⟩, ⟨0x080, .pr, 4, .ro⟩, ⟨0x0A0, .xscalar, 8, .rw⟩, ⟨0x0C0, .xu, 8, .rw⟩,
    ⟨0x0E0, .xout, 8, .ro⟩, ⟨0x100, .fa, 8, .rw⟩, ⟨0x120, .fb, 8, .rw⟩, ⟨0x140, .fr, 8, .ro⟩ ]

/-- The row an offset lies in, and the word of that register it names. -/
def findReg (off : Nat) : Option (MapRow × Nat) :=
  (registerMap.find? fun row => decide (row.offset ≤ off ∧ off < row.offset + 4 * row.words)).map
    fun row => (row, (off - row.offset) / 4)

/-- What a transaction selects; `none` is a bus error: size ≠ 4, a misaligned offset, or a reserved offset
(20_memory.md R105). -/
def selectReg (off : BitVec 9) (size : AccessSize) : Option (MapRow × Nat) :=
  if size = .word ∧ off.toNat % 4 = 0 then findReg off.toNat else none

/-! ### Reads -/

/-- The ID constant (10_state.md R33). -/
def idValue : Word := 0x13052551

/-- The exact value of word k of a register (20_memory.md R106). -/
def readReg (r : Reg) (k : Nat) (s : State) : Word :=
  match r with
  | .id => idValue
  | .cmd => 0
  | .status => statusWord s
  | .ctrl => ctrlWord s
  | .intstat => intstatWord s
  | .pkey => wordOf s.poly.pkey k
  | .pdata => wordOf s.poly.pdata k
  | .ptag => wordOf s.poly.ptag k
  | .pacc => wordOf s.poly.ctx.h k
  | .pr => wordOf s.poly.ctx.r k
  | .xscalar => wordOf s.curve.xscalar k
  | .xu => wordOf s.curve.xu k
  | .xout => wordOf s.curve.xout k
  | .fa => wordOf s.curve.fa k
  | .fb => wordOf s.curve.fb k
  | .fr => wordOf s.curve.fr k

/-- Whether the command in flight may write a register, so that a read of it returns `any`: the table of 20_memory.md
R109. -/
def readsAny (i : Instr) (r : Reg) : Bool :=
  match i with
  | .pInit => r == .pacc || r == .pr
  | .pAdd _ => r == .pacc
  | .pFinish => r == .ptag || r == .pacc || r == .pr
  | .xBase | .xMul => r == .xout
  | .fAdd | .fSub | .fMul | .fSqr | .fInv => r == .fr
  | .nop | .clrErr | .sReset => false

/-- Whether a read of a register is an open draw now (20_memory.md R106, R109). -/
def isOpenRead (r : Reg) (s : State) : Bool :=
  match s.engine.inflight with
  | none => false
  | some f => readsAny f.job.instr r

/-- The bus answers a transaction. -/
def respond (a : Response) (s : State) : State := { s with port := { s.port with response := some a } }

/-- BusRead(off, size) (20_memory.md R105, R106, R109): it changes no register. An open read draws a fresh value
(log 4). -/
def busRead (off : BitVec 9) (size : AccessSize) (s : State) : Host.Outcome State Fault Refusal :=
  match selectReg off size with
  | none => .fault (.busError off)
  | some (row, k) =>
    if isOpenRead row.reg s then
      .next (respond (.data (Config.freeWord s.port.draws))
        { s with port := { s.port with draws := s.port.draws + 1 } })
    else .next (respond (.data (readReg row.reg k s)) s)

/-! ### Writes -/

/-- A word written to CMD: decoded and issued; an Illegal word is rejected with ERR_ILLEGAL, a BadLen word is the P_ADD
with that LEN, whose meaning is the rejection with ERR_LEN (30_encoding.md R160; log 13, log 14). -/
def issueWord (w : Word) (s : State) : Host.Outcome State Fault Refusal :=
  match decode w with
  | .cmd i => exec i s
  | .badLen len => exec (.pAdd len) s
  | .illegal => .next (unlessBusy (completeRejected .illegal) s)

/-- CTRL: IE ← w[0], never dropped (20_memory.md R107, 10_state.md R43). -/
def writeCtrl (w : Word) (s : State) : State := { s with engine := { s.engine with ie := w.getLsbD 0 } }

/-- INTSTAT: if w[0] = 1 then DONE ← 0, never dropped (20_memory.md R107, 10_state.md R44). -/
def writeIntstat (w : Word) (s : State) : State :=
  if w.getLsbD 0 then { s with engine := { s.engine with done := false } } else s

/-- PKEY word k (20_memory.md R102, R107). -/
def writePKey (k : Nat) (w : Word) (s : State) : State :=
  { s with poly := { s.poly with pkey := setWordOf s.poly.pkey k w } }

/-- PDATA word k. -/
def writePData (k : Nat) (w : Word) (s : State) : State :=
  { s with poly := { s.poly with pdata := setWordOf s.poly.pdata k w } }

/-- XSCALAR word k. -/
def writeXScalar (k : Nat) (w : Word) (s : State) : State :=
  { s with curve := { s.curve with xscalar := setWordOf s.curve.xscalar k w } }

/-- XU word k. -/
def writeXU (k : Nat) (w : Word) (s : State) : State :=
  { s with curve := { s.curve with xu := setWordOf s.curve.xu k w } }

/-- FA word k. -/
def writeFA (k : Nat) (w : Word) (s : State) : State :=
  { s with curve := { s.curve with fa := setWordOf s.curve.fa k w } }

/-- FB word k. -/
def writeFB (k : Nat) (w : Word) (s : State) : State :=
  { s with curve := { s.curve with fb := setWordOf s.curve.fb k w } }

/-- A write of `w` to word k of a defined register (20_memory.md R107): a read-only register ignores it; an operand
register takes it unless the core is busy, when it is dropped (10_state.md R61). -/
def writeReg (r : Reg) (k : Nat) (w : Word) (s : State) : Host.Outcome State Fault Refusal :=
  match r with
  | .id | .status | .ptag | .pacc | .pr | .xout | .fr => .next s
  | .cmd => issueWord w s
  | .ctrl => .next (writeCtrl w s)
  | .intstat => .next (writeIntstat w s)
  | .pkey => .next (unlessBusy (writePKey k w) s)
  | .pdata => .next (unlessBusy (writePData k w) s)
  | .xscalar => .next (unlessBusy (writeXScalar k w) s)
  | .xu => .next (unlessBusy (writeXU k w) s)
  | .fa => .next (unlessBusy (writeFA k w) s)
  | .fb => .next (unlessBusy (writeFB k w) s)

/-- BusWrite(off, size, w) (20_memory.md R105, R107). A dropped or ignored write still gets the OK response. -/
def busWrite (off : BitVec 9) (size : AccessSize) (w : Word) (s : State) : Host.Outcome State Fault Refusal :=
  match selectReg off size with
  | none => .fault (.busError off)
  | some (row, k) => writeReg row.reg k w (respond .ok s)

/-! ### Events at the pins -/

/-- `rst_n` asserted: every piece of state at its reset value, a command in flight abandoned (70_reset_and_hazards.md
R500, R502). -/
def assertReset (s : State) : State := resetCore { s with port := { s.port with inReset := true } }

/-- `rst_n` released: the core has been held at its reset values and is ready at once (70_reset_and_hazards.md R500). -/
def releaseReset (s : State) : State := resetCore { s with port := { s.port with inReset := false } }

/-- One event while `rst_n` is high (20_memory.md R112: transactions and completions, one at a time). -/
def runningEvent (e : PortEvent) (s : State) : Host.Outcome State Fault Refusal :=
  match e with
  | .bus (.read off size) => busRead off size s
  | .bus (.write off size w) => busWrite off size w s
  | .clock => .next (clockTick s)
  | .elapse => .next (elapse s)
  | .resetAssert => .next (assertReset s)
  | .resetRelease => .next s

/-- One event while `rst_n` is low: the core holds its reset values and accepts no transaction
(70_reset_and_hazards.md R500). -/
def heldEvent (e : PortEvent) (s : State) : Host.Outcome State Fault Refusal :=
  match e with
  | .bus _ => .fault .transactionInReset
  | .clock | .elapse | .resetAssert => .next (resetCore s)
  | .resetRelease => .next (releaseReset s)

/-- One event at the pins. -/
def portEvent (e : PortEvent) (s : State) : Host.Outcome State Fault Refusal :=
  if s.port.inReset then heldEvent e s else runningEvent e s

/-- The next event: the first one waiting; with none waiting, time passes until the command in flight, if any,
completes (30_encoding.md R162). Log 2. -/
def nextEvent (s : State) : PortEvent := s.port.pending.headD .elapse

/-- The event is taken from the queue, and no transaction has been answered yet in this step. -/
def takeEvent (s : State) : State :=
  { s with port := { s.port with pending := s.port.pending.tail, response := none } }

/-- The offset of CMD (10_state.md R31, R34). -/
def cmdOffset : BitVec 9 := 0x004

/-- The transaction that carries a command word: a 32-bit write to CMD (10_state.md R34, 30_encoding.md R148 `cmd`). -/
def cmdWrite (w : Word) : PortEvent := .bus (.write cmdOffset .word w)

end Sys2Proof.Machine
end

