-- ==== Sys2Proof/Machine/Step.lean ====
section
/-! DEFINITION. One step of the machine: the next event at the pins (log 1, log 2). -/

namespace Sys2Proof.Machine

/-- One step: the first event waiting at the port happens, or, with none waiting, time passes until the command in
flight completes (20_memory.md R112, 30_encoding.md R162). -/
def step (s : State) : Host.Outcome State Fault Refusal := portEvent (nextEvent s) (takeEvent s)

/-- `s` with the command word given as `nbits` bits of `w` (the bits above zero) as the transaction that arrives next:
a write to CMD at the head of the queue, the reset pin released so that the core accepts it. Log 1. -/
def State.withFetchWord (s : State) (nbits w : Nat) : State :=
  { s with port := { s.port with
      inReset := false
      pending := cmdWrite (BitVec.ofNat 32 (w % 2 ^ nbits)) :: s.port.pending } }

end Sys2Proof.Machine
end

