-- ==== Sys2Proof/Machine/Pseudo.lean ====
section
/-! DEFINITION. The outside of the port: the platform's address decoder (20_memory.md R101, R110), and the spec's
notation for host transactions and its pseudo-commands (30_encoding.md R148 to R152) as the events they put on the port.
No step of the core reads this file. -/

namespace Sys2Proof.Machine

/-! ### The platform's decoder -/

/-- The window offset of a host byte address, BASE to BASE + 0x1FF; an address outside never reaches the core
(20_memory.md R100, R101). Log 7. -/
def windowOffset (addr : Nat) : Option (BitVec 9) :=
  if Config.base ≤ addr ∧ addr < Config.base + 0x200 then some (BitVec.ofNat 9 (addr - Config.base)) else none

/-- Events arrive after the ones already waiting (20_memory.md R112). -/
def enqueue (es : List PortEvent) (s : State) : State :=
  { s with port := { s.port with pending := s.port.pending ++ es } }

/-- A host read at a byte address: a transaction at the port, or nothing outside the window (20_memory.md R101). -/
def hostRead (addr : Nat) (size : AccessSize) (s : State) : State :=
  match windowOffset addr with
  | none => s
  | some off => enqueue [.bus (.read off size)] s

/-- A host write at a byte address (20_memory.md R101). -/
def hostWrite (addr : Nat) (size : AccessSize) (w : Word) (s : State) : State :=
  match windowOffset addr with
  | none => s
  | some off => enqueue [.bus (.write off size w)] s

/-! ### Notation (30_encoding.md R148) -/

/-- The offset of word k of a register (10_state.md R31). -/
def regOffset (r : Reg) (k : Nat) : BitVec 9 :=
  match registerMap.find? fun row => row.reg == r with
  | none => 0
  | some row => BitVec.ofNat 9 (row.offset + 4 * k)

/-- `wr REGk, w`. -/
def wrWord (r : Reg) (k : Nat) (w : Word) : PortEvent := .bus (.write (regOffset r k) .word w)

/-- `wr REG, value`: its word writes, word 0 first (20_memory.md R102). -/
def wrReg {w : Nat} (r : Reg) (words : Nat) (x : BitVec w) : List PortEvent :=
  (List.range words).map fun k => wrWord r k (wordOf x k)

/-- `rd REG`: a read of each word. -/
def rdReg (r : Reg) (words : Nat) : List PortEvent :=
  (List.range words).map fun k => .bus (.read (regOffset r k) .word)

/-- `cmd MNEMONIC` (30_encoding.md R147). -/
def cmd (i : Instr) : PortEvent := cmdWrite (encode i)

/-- `wait`: time passes until the command in flight completes, then the read of STATUS that finds BUSY = 0. Log 18. -/
def waitIdle : List PortEvent := [.elapse, .bus (.read (regOffset .status 0) .word)]

/-! ### Pseudo-commands -/

/-- P_SETKEY k (30_encoding.md R149). -/
def pSetKey (key : BitVec 256) : List PortEvent := wrReg .pkey 8 key

/-- One chunk of P_ADD_BYTES: the chunk to PDATA, zeros beyond it, P_ADD of its length, wait (30_encoding.md R150).
Log 18. -/
def pAddChunk (c : List Byte) : List PortEvent :=
  wrReg .pdata 4 (ofBytes 128 c) ++ [cmd (.pAdd (BitVec.ofNat 5 c.length))] ++ waitIdle

/-- A message cut into 16-byte chunks, the last one shorter where need be (30_encoding.md R150). -/
def chunks16 (m : List Byte) : List (List Byte) :=
  (List.range ((m.length + 15) / 16)).map fun i => (m.drop (16 * i)).take 16

/-- P_ADD_BYTES m (30_encoding.md R150); nothing for the empty message. -/
def pAddBytes (m : List Byte) : List PortEvent := (chunks16 m).flatMap pAddChunk

/-- A whole MAC over given chunks, up to the tag in PTAG (40_poly1305.md R216). -/
def macChunks (key : BitVec 256) (chunks : List (List Byte)) : List PortEvent :=
  pSetKey key ++ [cmd .pInit] ++ waitIdle ++ chunks.flatMap pAddChunk ++ [cmd .pFinish] ++ waitIdle

/-- ONETIMEAUTH k, m (30_encoding.md R151). -/
def oneTimeAuth (key : BitVec 256) (m : List Byte) : List PortEvent :=
  pSetKey key ++ [cmd .pInit] ++ waitIdle ++ pAddBytes m ++ [cmd .pFinish] ++ waitIdle ++ rdReg .ptag 4

/-- SCALARMULT_BASE sk (30_encoding.md R152). -/
def scalarMultBase (sk : BitVec 256) : List PortEvent :=
  wrReg .xscalar 8 sk ++ [cmd .xBase] ++ waitIdle ++ rdReg .xout 8

/-- SCALARMULT sk, pk (30_encoding.md R152). -/
def scalarMult (sk pk : BitVec 256) : List PortEvent :=
  wrReg .xscalar 8 sk ++ wrReg .xu 8 pk ++ [cmd .xMul] ++ waitIdle ++ rdReg .xout 8

end Sys2Proof.Machine
end

