-- ==== Sys2Proof/Safety.lean ====
section
/-! DEFINITION. What counts as a sound state and a safe run: the invariant of the machine's registers, which next events
stop it, and the hazards a host program must avoid (70_reset_and_hazards.md R510). -/

namespace Sys2Proof.Machine

/-! ### The invariant -/

/-- P.*: P.R has only bits of the clamping mask (10_state.md R56), P.H is reduced (R58), and the buffer is zero from
P.BUFLEN on (R59 and log 11). -/
abbrev CtxSound (c : PolyCtx) : Prop :=
  c.r &&& ~~~clampMask = 0 ∧ c.h.toNat < p1305 ∧ ∀ i, i < 16 → c.bufLen.toNat ≤ i → byteAt c.buf i = 0

/-- The Poly1305 unit: P.* is sound, and cleared unless a context is open (10_state.md R40, R56 to R59). -/
abbrev PolySound (p : PolyUnit) : Prop := CtxSound p.ctx ∧ (p.pstate ≠ .active → p.ctx = PolyCtx.cleared)

/-- The results of the curve unit are canonical field elements (10_state.md R55, 41_x25519.md R253). -/
abbrev CurveSound (c : CurveUnit) : Prop := c.xout.toNat < p25519 ∧ c.fr.toNat < p25519

/-- A snapshot equals the registers it was taken from: no operand write can arrive between acceptance and completion
(20_memory.md R115), and the context P_ADD or P_FINISH reads is open (40_poly1305.md R215). -/
abbrev SnapshotSound (j : Job) (p : PolyUnit) (c : CurveUnit) : Prop :=
  match j with
  | .pInit pkey => pkey = p.pkey
  | .pAdd len pdata ctx => len.toNat ≤ 16 ∧ pdata = p.pdata ∧ ctx = p.ctx ∧ p.pstate = .active
  | .pFinish ctx => ctx = p.ctx ∧ p.pstate = .active
  | .xBase xscalar => xscalar = c.xscalar
  | .xMul xscalar xu => xscalar = c.xscalar ∧ xu = c.xu
  | .fAdd fa fb => fa = c.fa ∧ fb = c.fb
  | .fSub fa fb => fa = c.fa ∧ fb = c.fb
  | .fMul fa fb => fa = c.fa ∧ fb = c.fb
  | .fSqr fa => fa = c.fa
  | .fInv fa => fa = c.fa

/-- The command in flight: its snapshot is current, and between 1 and LAT(op) cycles remain (10_state.md R60). -/
abbrev FlightSound (s : State) : Prop :=
  ∀ f, s.engine.inflight = some f →
    SnapshotSound f.job s.poly s.curve ∧ 1 ≤ f.remaining ∧ f.remaining ≤ f.job.latency

/-- The sticky bit covers every recorded error (10_state.md R37). -/
abbrev ErrorsSound (e : Engine) : Prop := (e.err ≠ .ok → e.errs = true) ∧ (e.ovr = true → e.errs = true)

/-- The invariant that every step keeps. While `rst_n` is asserted every register is at its reset value
(70_reset_and_hazards.md R500). -/
structure Sound (s : State) : Prop where
  poly : PolySound s.poly
  curve : CurveSound s.curve
  flight : FlightSound s
  errors : ErrorsSound s.engine
  held : s.port.inReset = true → resetCore s = s

/-! ### What stops a step -/

/-- A reserved offset of the window, as 20_memory.md R105 (c) lists them. -/
def reservedOffset (off : BitVec 9) : Bool :=
  (decide (0x014 ≤ off.toNat ∧ off.toNat < 0x020)) || (decide (0x074 ≤ off.toNat ∧ off.toNat < 0x080))
    || (decide (0x090 ≤ off.toNat ∧ off.toNat < 0x0A0)) || (decide (0x160 ≤ off.toNat))

/-- A transaction that raises a bus error: the conditions (a), (b), (c) of 20_memory.md R105. -/
def malformed (off : BitVec 9) (size : AccessSize) : Bool :=
  size != .word || decide (off.toNat % 4 ≠ 0) || reservedOffset off

/-- The offset and size of a transaction. -/
def Transaction.target : Transaction → BitVec 9 × AccessSize
  | .read off size => (off, size)
  | .write off size _ => (off, size)

/-- Whether an event can be taken without a fault (60_exceptions.md R404, 70_reset_and_hazards.md R500). -/
def allowedEvent (s : State) : PortEvent → Bool
  | .bus t => !s.port.inReset && !malformed t.target.1 t.target.2
  | .clock | .elapse | .resetAssert | .resetRelease => true

/-- A run is safe when no step of it stops. -/
def Runs (s : State) : Prop := ∃ t, step s = .next t

/-! ### Hazards (70_reset_and_hazards.md R510) -/

/-- The registers whose writes are dropped while the core is busy: CMD and the operand registers (10_state.md R61). -/
def droppedWhenBusy : Reg → Bool
  | .cmd | .pkey | .pdata | .xscalar | .xu | .fa | .fb => true
  | .id | .status | .ctrl | .intstat | .ptag | .pacc | .pr | .xout | .fr => false

/-- Hazard (a): the next event is a write that the busy core drops. -/
def dropsNextWrite (s : State) : Bool :=
  match nextEvent s with
  | .bus (.write off size _) =>
    match selectReg off size with
    | some (row, _) => isBusy s && droppedWhenBusy row.reg
    | none => false
  | _ => false

/-- Hazard (b): the next event is a read of a result register of the command in flight. -/
def readsOpenNext (s : State) : Bool :=
  match nextEvent s with
  | .bus (.read off size) =>
    match selectReg off size with
    | some (row, _) => isOpenRead row.reg s
    | none => false
  | _ => false

/-! ### Words used to state claims -/

/-- The words with the opcode byte of `w`: `w` alone is legal and stands for `i`; with a LEN or an RSV other than `w`'s
the word is Illegal (30_encoding.md R141, R142, R147). -/
def soleWord (w : Word) (i : Instr) : Prop :=
  ∀ v : Word, v.toNat % 2 ^ 8 = w.toNat % 2 ^ 8 → decode v = if v = w then .cmd i else .illegal

/-- The two working points (x2 : z2), (x3 : z3) of the ladder as elements of GF(p25519): the mathematical reading of
41_x25519.md R256 and R257, free of byte arrays, masks and pending swaps. -/
structure FieldPair where
  x2 : ZMod p25519
  z2 : ZMod p25519
  x3 : ZMod p25519
  z3 : ZMod p25519

/-- The two points exchanged. -/
def FieldPair.swap (q : FieldPair) : FieldPair := { x2 := q.x3, z2 := q.z3, x3 := q.x2, z3 := q.z2 }

/-- One doubling and one differential addition (41_x25519.md R256): AA = (x2 + z2)², BB = (x2 − z2)². -/
def FieldPair.step (x1 : ZMod p25519) (q : FieldPair) : FieldPair :=
  let aa := (q.x2 + q.z2) ^ 2
  let bb := (q.x2 - q.z2) ^ 2
  let da := (q.x3 - q.z3) * (q.x2 + q.z2)
  let cb := (q.x3 + q.z3) * (q.x2 - q.z2)
  { x2 := aa * bb
    z2 := (aa - bb) * (aa + 121665 * (aa - bb))
    x3 := (da + cb) ^ 2
    z3 := x1 * (da - cb) ^ 2 }

/-- The ladder over bits t−1 down to 0 of n: the points are exchanged around the step of every 1 bit (41_x25519.md
R257). -/
def fieldLadder (n : Nat) (x1 : ZMod p25519) : Nat → FieldPair → FieldPair
  | 0, q => q
  | t + 1, q => fieldLadder n x1 t (if n.testBit t then ((q.swap.step x1).swap) else q.step x1)

/-- The engine after a command completed without error: ERR = 0, DONE = 1, INFLIGHT = NONE, the sticky bits and IE as
they were (30_encoding.md R163). -/
def engineDone (e : Engine) : Engine :=
  { inflight := none, err := .ok, errs := e.errs, ovr := e.ovr, ie := e.ie, done := true }

/-- The engine after a rejection (60_exceptions.md R401). -/
def engineRejected (code : ErrCode) (e : Engine) : Engine :=
  { inflight := e.inflight, err := code, errs := true, ovr := e.ovr, ie := e.ie, done := true }

/-- The engine after a dropped write (10_state.md R61). -/
def engineDropped (e : Engine) : Engine :=
  { inflight := e.inflight, err := e.err, errs := true, ovr := true, ie := e.ie, done := e.done }

/-- The engine after acceptance (30_encoding.md R161). -/
def engineAccepted (j : Job) (remaining : Nat) (e : Engine) : Engine :=
  { inflight := some { job := j, remaining := remaining }, err := e.err, errs := e.errs, ovr := e.ovr, ie := e.ie
    done := e.done }

/-- `s` with one event waiting before `rest`, the reset pin high. -/
def facingEvent (e : PortEvent) (rest : List PortEvent) (s : State) : State :=
  { s with port := { s.port with inReset := false, pending := e :: rest } }

/-- The pins after a transaction was answered, `rest` still waiting. -/
def portAnswered (a : Response) (rest : List PortEvent) (p : Port) : Port :=
  { inReset := false, pending := rest, response := some a, draws := p.draws }

/-- `k` steps, stopping at the first fault or refusal: Host.Core.run of this machine (Laws/Run.lean). -/
def runSteps : Nat → State → Host.Outcome State Fault Refusal
  | 0, s => .next s
  | k + 1, s =>
    match step s with
    | .next t => runSteps k t
    | .fault r => .fault r
    | .refused r => .refused r

/-- A run over the given events: one step for each (20_memory.md R112). -/
def runEvents (es : List PortEvent) (s : State) : Host.Outcome State Fault Refusal :=
  runSteps es.length (enqueue es s)

/-- The next event is the write of command word `w` to CMD, and it is issued: the reset pin is high and nothing is in
flight (10_state.md R34). -/
def issuesNext (w : Word) (s : State) : Prop :=
  s.port.inReset = false ∧ isBusy s = false ∧ nextEvent s = cmdWrite w

/-- The next event is the completion of the command in flight: time passes and no further cycle is needed
(30_encoding.md R162). -/
def completesNext (s : State) (f : InFlight) : Prop :=
  s.port.inReset = false ∧ s.engine.inflight = some f ∧
    (nextEvent s = .elapse ∨ (nextEvent s = .clock ∧ f.remaining ≤ 1))

/-- The next event puts every register at its reset value: SRESET, or hardware reset (10_state.md R63). -/
def resetsNext (s : State) : Prop :=
  issuesNext (encode .sReset) s ∨ nextEvent s = .resetAssert ∨ s.port.inReset = true

/-- The command in flight with its snapshot hidden where `hide` says so: what an observer who must not see those
registers may still know of it. -/
def hiddenFlight (hide : Job → Bool) (f : Option InFlight) : Option (Instr × Nat × Option Job) :=
  f.map fun g => (g.job.instr, g.remaining, if hide g.job then none else some g.job)

/-- Whether a job works on the Curve25519 and field registers. -/
def Job.onCurve : Job → Bool
  | .pInit _ | .pAdd _ _ _ | .pFinish _ => false
  | .xBase _ | .xMul _ _ | .fAdd _ _ | .fSub _ _ | .fMul _ _ | .fSqr _ | .fInv _ => true

/-- Two states that differ at most in the Curve25519 and field registers, in a snapshot of them, and in the last bus
response. -/
def sameButCurve (s t : State) : Prop :=
  s.poly = t.poly ∧ hiddenFlight Job.onCurve s.engine.inflight = hiddenFlight Job.onCurve t.engine.inflight ∧
    { s.engine with inflight := none } = { t.engine with inflight := none } ∧
    { s.port with response := none } = { t.port with response := none }

/-- Two states that differ at most in the Poly1305 registers other than PSTATE, in a snapshot of them, and in the last
bus response. -/
def sameButPoly (s t : State) : Prop :=
  s.curve = t.curve ∧ s.poly.pstate = t.poly.pstate ∧
    hiddenFlight (fun j => !j.onCurve) s.engine.inflight = hiddenFlight (fun j => !j.onCurve) t.engine.inflight ∧
    { s.engine with inflight := none } = { t.engine with inflight := none } ∧
    { s.port with response := none } = { t.port with response := none }

/-- What SRESET and hardware reset leave: every register at its reset value (10_state.md R63). -/
def AtReset (s : State) : Prop :=
  s.poly = State.reset.poly ∧ s.curve = State.reset.curve ∧ s.engine = State.reset.engine

end Sys2Proof.Machine
end

