-- ==== Sys2Proof/Certificates/Slice0/Obligations.lean ====
section
/-! DEFINITION. The statements about the model, for the provers. Each docstring names the rule of spec/ it states. -/

open Sys2Proof Sys2Proof.Machine

/-! ### Encoding -/

/-- Decode and encode agree on every word and every operand value: a word is legal exactly when it encodes a
well-formed instruction, and then it decodes to that one (30_encoding.md R145, R147). -/
def Obligations.DecodeEncodeAgree : Prop :=
  ∀ (w : Word) (i : Instr), decode w = .cmd i ↔ i.wellFormed = true ∧ encode i = w

/-- The decode function of 30_encoding.md R145 on all words: with op = w[7:0], len = w[12:8], rsv = w[31:13]. -/
def Obligations.DecodeFollowsFields : Prop :=
  ∀ w : Word,
    (decode w = .illegal ↔
      w.toNat % 2 ^ 8 ∉ [0x00, 0x01, 0x02, 0x03, 0x10, 0x11, 0x20, 0x21, 0x22, 0x23, 0x24, 0xF0, 0xFF] ∨
        w.toNat / 2 ^ 13 ≠ 0 ∨ (w.toNat % 2 ^ 8 ≠ 0x02 ∧ w.toNat / 2 ^ 8 % 2 ^ 5 ≠ 0)) ∧
    (∀ len, decode w = .badLen len ↔
      w.toNat % 2 ^ 8 = 0x02 ∧ w.toNat / 2 ^ 8 % 2 ^ 5 = len.toNat ∧ 16 < len.toNat ∧ w.toNat / 2 ^ 13 = 0) ∧
    (∀ i, decode w = .cmd i →
      (opcode i).toNat = w.toNat % 2 ^ 8 ∧ (lenOf i).toNat = w.toNat / 2 ^ 8 % 2 ^ 5)

/-- Words written out from the encoding, one of each family (30_encoding.md R147), and three refused ones
(95_test_vectors.md V41). -/
def Obligations.SampleWordsDecode : Prop :=
  decode 0b00000000000000000000000000000000#32 = .cmd .nop ∧
  decode 0b00000000000000000001000000000010#32 = .cmd (.pAdd 16) ∧
  decode 0b00000000000000000000000000010001#32 = .cmd .xMul ∧
  decode 0b00000000000000000000000000100100#32 = .cmd .fInv ∧
  decode 0b00000000000000000000000011111111#32 = .cmd .sReset ∧
  decode 0b00000000000000000001000100000010#32 = .badLen 17 ∧
  decode 0b00000000000000000010000100000010#32 = .illegal ∧
  decode 0b00000000000000000000000000000100#32 = .illegal

/-! ### A step runs the decoded command -/

/-- A command word at the head of the queue: the step takes it from the queue, answers the write, and is exec of the
decoded instruction there (30_encoding.md R160; logs 1, 13). -/
def Obligations.StepRunsDecodedCommand : Prop :=
  ∀ (s : State) (w : Word) (rest : List PortEvent) (i : Instr),
    (decode w).instr? = some i →
      step (facingEvent (cmdWrite w) rest s) = exec i { s with port := portAnswered .ok rest s.port }

/-- The checks on a command word and their order (60_exceptions.md R402): dropped while busy, then ERR_ILLEGAL, then
ERR_LEN, then ERR_STATE; a rejection writes ERR, ERRS and DONE only (R401), and a word that passes them all is not
rejected. -/
def Obligations.CommandChecksInOrder : Prop :=
  ∀ (s : State) (w : Word) (rest : List PortEvent),
    let illegal :=
      w.toNat % 2 ^ 8 ∉ [0x00, 0x01, 0x02, 0x03, 0x10, 0x11, 0x20, 0x21, 0x22, 0x23, 0x24, 0xF0, 0xFF] ∨
        w.toNat / 2 ^ 13 ≠ 0 ∨ (w.toNat % 2 ^ 8 ≠ 0x02 ∧ w.toNat / 2 ^ 8 % 2 ^ 5 ≠ 0)
    let long := w.toNat % 2 ^ 8 = 0x02 ∧ 16 < w.toNat / 2 ^ 8 % 2 ^ 5
    let needsContext := w.toNat % 2 ^ 8 = 0x02 ∨ w.toNat % 2 ^ 8 = 0x03
    let after (e : Engine) : Host.Outcome State Fault Refusal :=
      .next { s with port := portAnswered .ok rest s.port, engine := e }
    let out := step (facingEvent (cmdWrite w) rest s)
    (isBusy s = true → out = after (engineDropped s.engine)) ∧
    (isBusy s = false → illegal → out = after (engineRejected .illegal s.engine)) ∧
    (isBusy s = false → ¬illegal → long → out = after (engineRejected .len s.engine)) ∧
    (isBusy s = false → ¬illegal → ¬long → needsContext → s.poly.pstate ≠ .active →
      out = after (engineRejected .state s.engine)) ∧
    (isBusy s = false → ¬illegal → ¬long → (needsContext → s.poly.pstate = .active) →
      ∃ t, out = .next t ∧ (t.engine.err = .ok ∨ t.engine.err = s.engine.err) ∧
        (t.engine.errs = true → s.engine.errs = true))

/-! ### The register window -/

/-- A transaction raises a bus error exactly when its size is not 4, its offset is misaligned or it names a reserved
offset, and then no state is left to change (20_memory.md R105, 60_exceptions.md R404; log 8). -/
def Obligations.BusErrorExactlyOnMalformed : Prop :=
  ∀ (s : State) (t : Transaction) (rest : List PortEvent),
    (malformed t.target.1 t.target.2 = true →
      step (facingEvent (.bus t) rest s) = .fault (.busError t.target.1)) ∧
    (malformed t.target.1 t.target.2 = false → ∃ u, step (facingEvent (.bus t) rest s) = .next u)

/-- What stops a step: nothing but a malformed transaction or one during reset; no step is refused
(60_exceptions.md R404, 70_reset_and_hazards.md R500, 30_encoding.md R164). -/
def Obligations.StepStopsOnlyOnBadTransactions : Prop :=
  ∀ s : State, (allowedEvent s (nextEvent s) = true ↔ Runs s) ∧ ∀ r, step s ≠ .refused r

/-- Byte lanes: byte j of word k is byte 4k+j of the register, a write of word k sets exactly its four bytes, and LE of
the register is the sum of its words (20_memory.md R102). -/
def Obligations.ByteLanesLittleEndian : Prop :=
  ∀ (n : Nat) (x : BitVec (32 * n)) (v : Word),
    (∀ k j, k < n → j < 4 → byteAt (wordOf x k) j = byteAt x (4 * k + j)) ∧
    (∀ k i, k < n → i < 4 * n →
      byteAt (setWordOf x k v) i = if i / 4 = k then byteAt v (i % 4) else byteAt x i) ∧
    leNat (bytesOf x (4 * n)) = ((List.range n).map fun k => (wordOf x k).toNat * 2 ^ (32 * k)).sum ∧
    leNat (bytesOf x (4 * n)) = x.toNat

/-- BusRead (20_memory.md R106): at every defined offset a read answers the register's word and changes nothing else,
while nothing is in flight. -/
def Obligations.ReadAnswersRegister : Prop :=
  ∀ (s : State) (rest : List PortEvent), isBusy s = false →
    let reads (off : Nat) (w : Word) : Prop :=
      step (facingEvent (.bus (.read (BitVec.ofNat 9 off) .word)) rest s) =
        .next { s with port := portAnswered (.data w) rest s.port }
    reads 0x000 0x13052551 ∧ reads 0x004 0 ∧ reads 0x008 (statusWord s) ∧
    reads 0x00C (if s.engine.ie then 1 else 0) ∧ reads 0x010 (if s.engine.done then 1 else 0) ∧
    (∀ k, k < 8 → reads (0x020 + 4 * k) (wordOf s.poly.pkey k)) ∧
    (∀ k, k < 4 → reads (0x040 + 4 * k) (wordOf s.poly.pdata k)) ∧
    (∀ k, k < 4 → reads (0x050 + 4 * k) (wordOf s.poly.ptag k)) ∧
    (∀ k, k < 5 → reads (0x060 + 4 * k) (BitVec.ofNat 32 (s.poly.ctx.h.toNat / 2 ^ (32 * k)))) ∧
    (∀ k, k < 4 → reads (0x080 + 4 * k) (BitVec.ofNat 32 (s.poly.ctx.r.toNat / 2 ^ (32 * k)))) ∧
    (∀ k, k < 8 → reads (0x0A0 + 4 * k) (wordOf s.curve.xscalar k)) ∧
    (∀ k, k < 8 → reads (0x0C0 + 4 * k) (wordOf s.curve.xu k)) ∧
    (∀ k, k < 8 → reads (0x0E0 + 4 * k) (wordOf s.curve.xout k)) ∧
    (∀ k, k < 8 → reads (0x100 + 4 * k) (wordOf s.curve.fa k)) ∧
    (∀ k, k < 8 → reads (0x120 + 4 * k) (wordOf s.curve.fb k)) ∧
    (∀ k, k < 8 → reads (0x140 + 4 * k) (wordOf s.curve.fr k))

/-- Reads while a command is in flight (20_memory.md R109): a register the command may write answers a fresh draw,
every other one its exact current word; neither changes a register. That draws follow one another in `port.draws` is the model's
choice (log 4). -/
def Obligations.ReadWhileBusy : Prop :=
  ∀ (s : State) (f : InFlight) (off : BitVec 9) (row : MapRow) (k : Nat) (rest : List PortEvent),
    s.engine.inflight = some f → selectReg off .word = some (row, k) →
      let o := off.toNat
      let tag := 0x050 ≤ o ∧ o < 0x060
      let acc := 0x060 ≤ o ∧ o < 0x074
      let mult := 0x080 ≤ o ∧ o < 0x090
      let isOpen : Prop :=
        match f.job with
        | .pInit _ => acc ∨ mult
        | .pAdd _ _ _ => acc
        | .pFinish _ => tag ∨ acc ∨ mult
        | .xBase _ | .xMul _ _ => 0x0E0 ≤ o ∧ o < 0x100
        | .fAdd _ _ | .fSub _ _ | .fMul _ _ | .fSqr _ | .fInv _ => 0x140 ≤ o ∧ o < 0x160
      (isOpen → step (facingEvent (.bus (.read off .word)) rest s) =
        .next { s with port := { portAnswered (.data (Config.freeWord s.port.draws)) rest s.port with
          draws := s.port.draws + 1 } }) ∧
      (¬isOpen → step (facingEvent (.bus (.read off .word)) rest s) =
        .next { s with port := portAnswered (.data (readReg row.reg k s)) rest s.port })

/-- A write to an operand register while nothing is in flight sets that one word and changes nothing else
(20_memory.md R107). -/
def Obligations.OperandWriteSetsOneWord : Prop :=
  ∀ (s : State) (w : Word) (rest : List PortEvent), isBusy s = false →
    let wrote (off : Nat) (t : State) : Prop :=
      step (facingEvent (.bus (.write (BitVec.ofNat 9 off) .word w)) rest s) =
        .next { t with port := portAnswered .ok rest s.port }
    (∀ k, k < 8 → wrote (0x020 + 4 * k) { s with poly := { s.poly with pkey := setWordOf s.poly.pkey k w } }) ∧
    (∀ k, k < 4 → wrote (0x040 + 4 * k) { s with poly := { s.poly with pdata := setWordOf s.poly.pdata k w } }) ∧
    (∀ k, k < 8 →
      wrote (0x0A0 + 4 * k) { s with curve := { s.curve with xscalar := setWordOf s.curve.xscalar k w } }) ∧
    (∀ k, k < 8 → wrote (0x0C0 + 4 * k) { s with curve := { s.curve with xu := setWordOf s.curve.xu k w } }) ∧
    (∀ k, k < 8 → wrote (0x100 + 4 * k) { s with curve := { s.curve with fa := setWordOf s.curve.fa k w } }) ∧
    (∀ k, k < 8 → wrote (0x120 + 4 * k) { s with curve := { s.curve with fb := setWordOf s.curve.fb k w } })

/-- While a command is in flight, a write to CMD, PKEY, PDATA, XSCALAR, XU, FA or FB is dropped: OVR and ERRS are set,
nothing else changes, and the write is answered without error (10_state.md R61). -/
def Obligations.BusyWriteDropped : Prop :=
  ∀ (s : State) (off : BitVec 9) (w : Word) (rest : List PortEvent),
    isBusy s = true → off.toNat % 4 = 0 →
      (off.toNat = 0x004 ∨ (0x020 ≤ off.toNat ∧ off.toNat < 0x050) ∨ (0x0A0 ≤ off.toNat ∧ off.toNat < 0x0E0) ∨
        (0x100 ≤ off.toNat ∧ off.toNat < 0x140)) →
      step (facingEvent (.bus (.write off .word w)) rest s) =
        .next { s with port := portAnswered .ok rest s.port, engine := engineDropped s.engine }

/-- A write to a read-only register is ignored, busy or not, with no error (10_state.md R32, 20_memory.md R107). -/
def Obligations.ReadOnlyWriteIgnored : Prop :=
  ∀ (s : State) (off : BitVec 9) (w : Word) (rest : List PortEvent),
    off.toNat % 4 = 0 →
      (off.toNat = 0x000 ∨ off.toNat = 0x008 ∨ (0x050 ≤ off.toNat ∧ off.toNat < 0x074) ∨
        (0x080 ≤ off.toNat ∧ off.toNat < 0x090) ∨ (0x0E0 ≤ off.toNat ∧ off.toNat < 0x100) ∨
        (0x140 ≤ off.toNat ∧ off.toNat < 0x160)) →
      step (facingEvent (.bus (.write off .word w)) rest s) =
        .next { s with port := portAnswered .ok rest s.port }

/-- CTRL (10_state.md R43): IE is 0 at reset, a write sets it to bit 0 at once even while busy and changes nothing
else, and the other bits read 0. -/
def Obligations.CtrlHoldsInterruptEnable : Prop :=
  State.reset.engine.ie = false ∧
  (∀ (s : State) (w : Word) (rest : List PortEvent),
    step (facingEvent (.bus (.write 0x00C .word w)) rest s) =
      .next { s with port := portAnswered .ok rest s.port, engine := { s.engine with ie := w.getLsbD 0 } }) ∧
  ∀ (s : State) (rest : List PortEvent),
    step (facingEvent (.bus (.read 0x00C .word)) rest s) =
      .next { s with port := portAnswered (.data (if s.engine.ie then 1 else 0)) rest s.port }

/-- INTSTAT (10_state.md R44, 20_memory.md R107): writing 1 to bit 0 clears DONE, writing 0 leaves it, busy or not, and
nothing else changes. -/
def Obligations.IntstatWriteOneClears : Prop :=
  ∀ (s : State) (w : Word) (rest : List PortEvent),
    step (facingEvent (.bus (.write 0x010 .word w)) rest s) =
      .next { s with port := portAnswered .ok rest s.port
                     engine := { s.engine with done := if w.getLsbD 0 then false else s.engine.done } }

/-- The platform's decoder (20_memory.md R100, R101, R110): BASE is a multiple of 0x200; an address of the window
reaches the core at its low nine bits, where a host read or write there is the transaction that arrives after those
already waiting; for any other address nothing arrives (log 7; the queue is log 1). -/
def Obligations.WindowDecodesAddresses : Prop :=
  Config.base % 0x200 = 0 ∧
  (∀ addr off, windowOffset addr = some off ↔
    addr / 0x200 = Config.base / 0x200 ∧ off.toNat = addr % 0x200) ∧
  ∀ (s : State) (addr : Nat) (size : AccessSize) (w : Word),
    let arrives (t : Transaction) : State :=
      { s with port := { s.port with pending := s.port.pending ++ [.bus t] } }
    (∀ off, windowOffset addr = some off →
      hostRead addr size s = arrives (.read off size) ∧ hostWrite addr size w s = arrives (.write off size w)) ∧
    (addr < Config.base ∨ Config.base + 0x1FF < addr → hostWrite addr size w s = s ∧ hostRead addr size s = s)

/-! ### STATUS, errors and the interrupt -/

/-- STATUS (10_state.md R35, R41, R42): each field at its bits, and 0 in the reserved bits, in every state. -/
def Obligations.StatusFields : Prop :=
  ∀ s : State,
    (statusWord s).toNat =
      (if s.engine.inflight = none then 0 else 1) + 2 * s.engine.errs.toNat + 4 * s.engine.ovr.toNat
        + 2 ^ 4 * (match s.engine.err with | .ok => 0 | .illegal => 1 | .state => 2 | .len => 3)
        + 2 ^ 8 * (match s.poly.pstate with | .idle => 0 | .active => 1 | .done => 2)
        + 2 ^ 16 * s.poly.ctx.bufLen.toNat

/-- ERRS is sticky (10_state.md R37): only CLRERR, SRESET or hardware reset clears it; it is set whenever OVR becomes
set or a write is dropped, and whenever a command completes with ERR ≠ 0 in a sound state. -/
def Obligations.ErrsIsSticky : Prop :=
  ∀ s t : State, step s = .next t →
    (s.engine.errs = true → t.engine.errs = false → issuesNext (encode .clrErr) s ∨ resetsNext s) ∧
    (s.engine.ovr = false → t.engine.ovr = true → t.engine.errs = true) ∧
    (s.port.inReset = false → dropsNextWrite s = true → t.engine.errs = true) ∧
    (Sound s → t.engine.err ≠ .ok → t.engine.errs = true)

/-- OVR (10_state.md R38): set exactly by a dropped write to CMD or an operand register, cleared only by CLRERR, SRESET
or hardware reset. -/
def Obligations.OvrMarksDroppedWrites : Prop :=
  ∀ s t : State, step s = .next t →
    (s.port.inReset = false → dropsNextWrite s = true → t.engine.ovr = true) ∧
    (s.engine.ovr = false → t.engine.ovr = true → dropsNextWrite s = true) ∧
    (s.engine.ovr = true → t.engine.ovr = false → issuesNext (encode .clrErr) s ∨ resetsNext s)

/-- DONE, the only interrupt source (60_exceptions.md R411): it rises only at the completion of a command in flight, or at
the issue of a command word other than SRESET that completes at once, and those set it; a dropped write leaves it, and
SRESET clears it. -/
def Obligations.DoneRisesOnlyOnCompletion : Prop :=
  ∀ s t : State, step s = .next t →
    (s.engine.done = false → t.engine.done = true →
      (∃ f, completesNext s f) ∨ ∃ w, issuesNext w s ∧ w ≠ encode .sReset ∧ isBusy t = false) ∧
    (∀ f, completesNext s f → t.engine.done = true) ∧
    (∀ w, issuesNext w s → w ≠ encode .sReset → isBusy t = false → t.engine.done = true) ∧
    (s.port.inReset = false → dropsNextWrite s = true → t.engine.done = s.engine.done) ∧
    (issuesNext (encode .sReset) s → t.engine.done = false)

/-- The interrupt output (60_exceptions.md R410): IE AND DONE. It is high after a command completes with IE = 1 (one in
flight, or a word other than SRESET that completes at issue) and after CTRL sets IE with DONE = 1, and it rises in no other
step; it is low after an INTSTAT write of 1, SRESET, hardware reset and a CTRL write that clears IE, and it falls in no
other step. -/
def Obligations.IrqFollowsEnableAndDone : Prop :=
  (∀ s : State, irqLine s = true ↔ s.engine.ie = true ∧ s.engine.done = true) ∧
  ∀ s t : State, step s = .next t →
    let completes : Prop :=
      (∃ f, completesNext s f) ∨ ∃ w, issuesNext w s ∧ w ≠ encode .sReset ∧ isBusy t = false
    let writesCtrl (ie : Bool) : Prop := ∃ w : Word, nextEvent s = .bus (.write 0x00C .word w) ∧ w.getLsbD 0 = ie
    let clearsDone : Prop :=
      resetsNext s ∨ ∃ w : Word, nextEvent s = .bus (.write 0x010 .word w) ∧ w.getLsbD 0 = true
    (s.engine.ie = true → completes → irqLine t = true) ∧
    (s.engine.done = true → writesCtrl true → irqLine t = true) ∧
    (irqLine s = false → irqLine t = true →
      (s.engine.ie = true ∧ completes) ∨ (s.engine.done = true ∧ writesCtrl true)) ∧
    (clearsDone ∨ writesCtrl false → irqLine t = false) ∧
    (irqLine s = true → irqLine t = false → clearsDone ∨ writesCtrl false)

/-! ### Control commands -/

/-- NOP (43_control.md R340): ERR ← 0 and DONE ← 1, the sticky bits and everything else as before; dropped while
busy. -/
def Obligations.NopClearsErrOnly : Prop :=
  soleWord 0x00000000 .nop ∧ ∀ s : State,
    (isBusy s = false → exec .nop s = .next { s with engine := { s.engine with err := .ok, done := true } }) ∧
    (isBusy s = true → exec .nop s = .next { s with engine := engineDropped s.engine })

/-- CLRERR (43_control.md R342): ERR, ERRS and OVR cleared, DONE set, everything else as before; dropped while busy. -/
def Obligations.ClrErrClearsErrors : Prop :=
  soleWord 0x000000F0 .clrErr ∧ ∀ s : State,
    (isBusy s = false →
      exec .clrErr s =
        .next { s with engine := { s.engine with err := .ok, errs := false, ovr := false, done := true } }) ∧
    (isBusy s = true → exec .clrErr s = .next { s with engine := engineDropped s.engine })

/-- SRESET (43_control.md R344): every register takes its reset value, DONE and IE among them, and STATUS reads 0; the
pins keep what they hold; dropped while busy. -/
def Obligations.SResetRestoresReset : Prop :=
  soleWord 0x000000FF .sReset ∧ ∀ s : State,
    (isBusy s = false →
      ∃ t, exec .sReset s = .next t ∧ AtReset t ∧ t.port = s.port ∧ statusWord t = 0 ∧ irqLine t = false) ∧
    (isBusy s = true → exec .sReset s = .next { s with engine := engineDropped s.engine })

/-! ### Poly1305 commands -/

/-- Clamping (40_poly1305.md R201): LE of the r half AND CLAMP_R; byte by byte, bytes 3, 7, 11, 15 lose their top four
bits, bytes 4, 8, 12 their low two, the others nothing; and it is idempotent. -/
def Obligations.ClampKeepsListedBits : Prop :=
  ∀ key : BitVec 256,
    (clampR key).toNat = leNat ((bytesOf key 32).take 16) &&& 0x0ffffffc0ffffffc0ffffffc0fffffff ∧
    (∀ i, i < 16 → byteAt (clampR key) i =
      byteAt key i &&& (if i % 4 = 3 then 0x0F else if i % 4 = 0 ∧ i ≠ 0 then 0xFC else 0xFF)) ∧
    clampR (ofBytes 256 (bytesOf (clampR key) 16)) = clampR key

/-- P_INIT (40_poly1305.md R210): accepted in every PSTATE while nothing is in flight, with PKEY as its snapshot; at
completion r and s are latched from it, the accumulator and buffer are cleared, PSTATE is ACTIVE, ERR = 0 and DONE = 1,
and PTAG, PKEY, PDATA and the other unit are as before. -/
def Obligations.PInitStartsContext : Prop :=
  soleWord 0x00000001 .pInit ∧ ∀ s : State, isBusy s = false →
    ∃ t u, exec .pInit s = .next t ∧ u = complete t ∧
      t = { s with engine := engineAccepted (.pInit s.poly.pkey) (Config.latency 0x01) s.engine } ∧
      u = { s with poly := { s.poly with ctx := u.poly.ctx, pstate := .active }, engine := engineDone s.engine } ∧
      u.poly.ctx.r.toNat =
        leNat ((bytesOf s.poly.pkey 32).take 16) &&& 0x0ffffffc0ffffffc0ffffffc0fffffff ∧
      u.poly.ctx.s.toNat = leNat ((bytesOf s.poly.pkey 32).drop 16) ∧
      u.poly.ctx.h = 0 ∧ u.poly.ctx.buf = 0 ∧ u.poly.ctx.bufLen = 0

/-- P_ADD (40_poly1305.md R212): its words; with LEN 0 to 16, a context open and nothing in flight, accepted with PDATA
and P.* as its snapshot, and at completion the bytes P.BUF[0..BUFLEN−1] ++ PDATA[0..LEN−1] make at most one full block
and the rest is buffered, zero-filled; ERR = 0, DONE = 1, and nothing else changes; with a longer LEN, ERR_LEN in every
PSTATE; with no context open, ERR_STATE. -/
def Obligations.PAddAbsorbsBytes : Prop :=
  (∀ w : Word, w.toNat % 2 ^ 8 = 0x02 → decode w =
    if w.toNat / 2 ^ 13 ≠ 0 then .illegal
    else if 16 < w.toNat / 2 ^ 8 then .badLen (BitVec.ofNat 5 (w.toNat / 2 ^ 8))
    else .cmd (.pAdd (BitVec.ofNat 5 (w.toNat / 2 ^ 8)))) ∧
  ∀ (s : State) (len : BitVec 5), isBusy s = false →
    (16 < len.toNat → exec (.pAdd len) s = .next { s with engine := engineRejected .len s.engine }) ∧
    (len.toNat ≤ 16 → s.poly.pstate ≠ .active →
      exec (.pAdd len) s = .next { s with engine := engineRejected .state s.engine }) ∧
    (len.toNat ≤ 16 → s.poly.pstate = .active →
      ∃ t u, exec (.pAdd len) s = .next t ∧ u = complete t ∧
        t = { s with engine := engineAccepted (.pAdd len s.poly.pdata s.poly.ctx) (Config.latency 0x02) s.engine } ∧
        u = { s with
          poly := { s.poly with ctx := { s.poly.ctx with
            h := u.poly.ctx.h, buf := u.poly.ctx.buf, bufLen := u.poly.ctx.bufLen } }
          engine := engineDone s.engine } ∧
        let bytes := bytesOf s.poly.ctx.buf s.poly.ctx.bufLen.toNat ++ bytesOf s.poly.pdata len.toNat
        let rest := if bytes.length < 16 then bytes else bytes.drop 16
        u.poly.ctx.h.toNat =
          (if bytes.length < 16 then s.poly.ctx.h.toNat
           else ((s.poly.ctx.h.toNat + (leNat (bytes.take 16) + 2 ^ 128)) * s.poly.ctx.r.toNat) % (2 ^ 130 - 5)) ∧
        u.poly.ctx.bufLen.toNat = rest.length ∧
        bytesOf u.poly.ctx.buf 16 = rest ++ List.replicate (16 - rest.length) 0)

/-- A zero-length P_ADD leaves P.H, P.BUF and P.BUFLEN unchanged, in every sound state (40_poly1305.md R212). -/
def Obligations.PAddZeroIsNoOp : Prop :=
  ∀ s : State, Sound s → isBusy s = false → s.poly.pstate = .active →
    ∃ t, exec (.pAdd 0) s = .next t ∧ complete t = { s with engine := engineDone s.engine }

/-- P_FINISH (40_poly1305.md R214): its word; with a context open and nothing in flight, accepted with P.* as its
snapshot, and at completion the buffered bytes, if any, are the final partial block with its marker at bit 8n, the tag is
the low 128 bits of h + s, the context is discarded, PSTATE is DONE, ERR = 0, DONE = 1, and nothing else changes; with no
context open, ERR_STATE. -/
def Obligations.PFinishMakesTag : Prop :=
  soleWord 0x00000003 .pFinish ∧ ∀ s : State, isBusy s = false →
    (s.poly.pstate ≠ .active → exec .pFinish s = .next { s with engine := engineRejected .state s.engine }) ∧
    (s.poly.pstate = .active →
      ∃ t u, exec .pFinish s = .next t ∧ u = complete t ∧
        t = { s with engine := engineAccepted (.pFinish s.poly.ctx) (Config.latency 0x03) s.engine } ∧
        u = { s with
          poly := { s.poly with
            ptag := u.poly.ptag, ctx := { r := 0, s := 0, h := 0, buf := 0, bufLen := 0 }, pstate := .done }
          engine := engineDone s.engine } ∧
        let n := s.poly.ctx.bufLen.toNat
        let h := if n = 0 then s.poly.ctx.h.toNat
          else ((s.poly.ctx.h.toNat + (leNat (bytesOf s.poly.ctx.buf n) + 2 ^ (8 * n))) * s.poly.ctx.r.toNat)
            % (2 ^ 130 - 5)
        u.poly.ptag.toNat = (h + s.poly.ctx.s.toNat) % 2 ^ 128)

/-- P_ADD and P_FINISH outside an open context are rejected with ERR_STATE, and no state other than ERR, ERRS and DONE
changes; P_INIT is never rejected (40_poly1305.md R215). -/
def Obligations.WrongStateRejected : Prop :=
  ∀ s : State, isBusy s = false →
    (s.poly.pstate ≠ .active →
      (∀ len : BitVec 5, len.toNat ≤ 16 →
        exec (.pAdd len) s = .next { s with engine := engineRejected .state s.engine }) ∧
      exec .pFinish s = .next { s with engine := engineRejected .state s.engine }) ∧
    ∃ t, exec .pInit s = .next t ∧ isBusy t = true

/-- Chunking invariance (40_poly1305.md R216): over any chunks of at most 16 bytes, set key, P_INIT, one P_ADD a chunk
and P_FINISH leave in PTAG the MAC of the concatenated message (R207; logs 15, 18). -/
def Obligations.ChunkingDoesNotChangeTag : Prop :=
  ∀ (s : State) (key : BitVec 256) (chunks : List (List Byte)),
    isBusy s = false → s.port.inReset = false → s.port.pending = [] → (∀ c ∈ chunks, c.length ≤ 16) →
      ∃ t, runEvents (macChunks key chunks) s = .next t ∧ t.poly.ptag = polyMac key chunks.flatten ∧
        t.poly.pstate = .done ∧ t.curve = s.curve

/-- ONETIMEAUTH k, m (30_encoding.md R151) leaves mac(k, m) in PTAG, and its last read answers PTAG3, for every key and
message (40_poly1305.md R207; logs 15, 18). -/
def Obligations.OneTimeAuthComputesMac : Prop :=
  ∀ (s : State) (key : BitVec 256) (m : List Byte),
    isBusy s = false → s.port.inReset = false → s.port.pending = [] →
      ∃ t, runEvents (oneTimeAuth key m) s = .next t ∧ t.poly.ptag = polyMac key m ∧
        t.port.response = some (.data (wordOf (polyMac key m) 3))

/-! ### X25519 commands -/

/-- Scalar clamping (41_x25519.md R251): the byte rules, the range and divisibility of the result, and idempotence. -/
def Obligations.ScalarClampRange : Prop :=
  ∀ a : BitVec 256,
    byteAt (clampScalar a) 0 = byteAt a 0 &&& 0xF8 ∧
    byteAt (clampScalar a) 31 = (byteAt a 31 &&& 0x7F) ||| 0x40 ∧
    (∀ i, 1 ≤ i → i ≤ 30 → byteAt (clampScalar a) i = byteAt a i) ∧
    2 ^ 254 ≤ (clampScalar a).toNat ∧ (clampScalar a).toNat < 2 ^ 255 ∧ (clampScalar a).toNat % 8 = 0 ∧
    clampScalar (clampScalar a) = clampScalar a

/-- Decoding of the u-coordinate for both values of U_MASK_BIT255 (41_x25519.md R252): masked to 255 bits or not, then
reduced; no value is refused. -/
def Obligations.UCoordinateDecoding : Prop :=
  ∀ u : BitVec 256,
    decodeU true u = u.toNat % 2 ^ 255 % (2 ^ 255 - 19) ∧ decodeU false u = u.toNat % (2 ^ 255 - 19)

/-- The conditional swap (41_x25519.md R255): (b, a) for swap = 1 and (a, b) for swap = 0, of any 256-bit values. -/
def Obligations.CswapSwaps : Prop :=
  ∀ a b : Nat, a < 2 ^ 256 → b < 2 ^ 256 → cswap true a b = (b, a) ∧ cswap false a b = (a, b)

/-- Every ladder value is a field element (41_x25519.md R258) and the result is canonical with bit 255 clear (R253),
for both values of U_MASK_BIT255. -/
def Obligations.LadderStaysInField : Prop :=
  (∀ (x1 : Nat) (kt : Bool) (l : Ladder), x1 < p25519 →
    l.x2 < p25519 → l.z2 < p25519 → l.x3 < p25519 → l.z3 < p25519 →
      let m := ladderIter x1 kt l
      m.x2 < p25519 ∧ m.z2 < p25519 ∧ m.x3 < p25519 ∧ m.z3 < p25519) ∧
  ∀ (mask : Bool) (a u : BitVec 256),
    (x25519 mask a u).toNat < p25519 ∧ (x25519 mask a u).getLsbD 255 = false

/-- X25519 is the Montgomery ladder in GF(p25519) (41_x25519.md R255 to R257): the byte arrays, the masked swaps with
their pending bit and the reductions of the core compute the same element as plain field arithmetic with the points
exchanged around the step of every 1 bit, for both values of U_MASK_BIT255. -/
def Obligations.LadderComputesInField : Prop :=
  ∀ (mask : Bool) (a u : BitVec 256),
    let x1 : ZMod p25519 := ((decodeU mask u : Nat) : ZMod p25519)
    let q := fieldLadder (clampScalar a).toNat x1 255 { x2 := 1, z2 := 0, x3 := x1, z3 := 1 }
    (((x25519 mask a u).toNat : Nat) : ZMod p25519) = q.x2 * q.z2 ^ (p25519 - 2)

/-- A u-coordinate that decodes to 0 gives the all-zero result for every scalar, and is not rejected (41_x25519.md R262,
R263). -/
def Obligations.ZeroPointGivesZero : Prop :=
  ∀ (mask : Bool) (a u : BitVec 256), decodeU mask u = 0 → x25519 mask a u = 0

/-- X_BASE (41_x25519.md R260): accepted with XSCALAR as its snapshot while nothing is in flight; at completion XOUT is
X25519(XSCALAR, 9), whatever U_MASK_BIT255 is; ERR = 0, DONE = 1, and nothing else changes. -/
def Obligations.XBaseComputesPublicKey : Prop :=
  soleWord 0x00000010 .xBase ∧ ∀ s : State, isBusy s = false →
    ∃ t, exec .xBase s = .next t ∧
      t = { s with engine := engineAccepted (.xBase s.curve.xscalar) (Config.latency 0x10) s.engine } ∧
      ∀ mask : Bool, complete t = { s with
        curve := { s.curve with xout := x25519 mask s.curve.xscalar 9 }, engine := engineDone s.engine }

/-- X_MUL (41_x25519.md R262): accepted with XSCALAR and XU as its snapshot while nothing is in flight; at completion
XOUT is X25519(XSCALAR, XU) with bit 255 of XU ignored (the parameter's decided value 1, log 6); ERR = 0, DONE = 1, and
nothing else changes. -/
def Obligations.XMulComputesSharedSecret : Prop :=
  soleWord 0x00000011 .xMul ∧ ∀ s : State, isBusy s = false →
    ∃ t, exec .xMul s = .next t ∧
      t = { s with engine := engineAccepted (.xMul s.curve.xscalar s.curve.xu) (Config.latency 0x11) s.engine } ∧
      complete t = { s with
        curve := { s.curve with xout := x25519 true s.curve.xscalar s.curve.xu }, engine := engineDone s.engine }

/-- X_BASE gives the XOUT that X_MUL gives with XU = 9 (41_x25519.md R261), and XU and XU with bit 255 flipped give
X_MUL the same XOUT (R262; log 6). -/
def Obligations.BaseIsMulOfNine : Prop :=
  ∀ s : State, isBusy s = false →
    ∃ tb tm tf,
      exec .xBase s = .next tb ∧
      exec .xMul { s with curve := { s.curve with xu := 9 } } = .next tm ∧
      (complete tm).curve.xout = (complete tb).curve.xout ∧
      exec .xMul { s with curve := { s.curve with xu := s.curve.xu ^^^ BitVec.ofNat 256 (2 ^ 255) } } = .next tf ∧
      ∀ t, exec .xMul s = .next t → (complete tf).curve.xout = (complete t).curve.xout

/-! ### Field commands -/

/-- F_ADD (42_field.md R310): accepted with FA and FB; at completion FR = (FA mod p + FB mod p) mod p, ERR = 0,
DONE = 1, and nothing else changes. -/
def Obligations.FAddAdds : Prop :=
  soleWord 0x00000020 .fAdd ∧ ∀ s : State, isBusy s = false →
    ∃ t u, exec .fAdd s = .next t ∧ u = complete t ∧
      t = { s with engine := engineAccepted (.fAdd s.curve.fa s.curve.fb) (Config.latency 0x20) s.engine } ∧
      u = { s with curve := { s.curve with fr := u.curve.fr }, engine := engineDone s.engine } ∧
      u.curve.fr.toNat =
        (s.curve.fa.toNat % (2 ^ 255 - 19) + s.curve.fb.toNat % (2 ^ 255 - 19)) % (2 ^ 255 - 19)

/-- F_SUB (42_field.md R312): as F_ADD, with the mathematical remainder of the difference. -/
def Obligations.FSubSubtracts : Prop :=
  soleWord 0x00000021 .fSub ∧ ∀ s : State, isBusy s = false →
    ∃ t u, exec .fSub s = .next t ∧ u = complete t ∧
      t = { s with engine := engineAccepted (.fSub s.curve.fa s.curve.fb) (Config.latency 0x21) s.engine } ∧
      u = { s with curve := { s.curve with fr := u.curve.fr }, engine := engineDone s.engine } ∧
      (u.curve.fr.toNat : Int) = ((s.curve.fa.toNat : Int) % (2 ^ 255 - 19) - (s.curve.fb.toNat : Int) % (2 ^ 255 - 19))
        % (2 ^ 255 - 19)

/-- F_MUL (42_field.md R314): as F_ADD, with the product. -/
def Obligations.FMulMultiplies : Prop :=
  soleWord 0x00000022 .fMul ∧ ∀ s : State, isBusy s = false →
    ∃ t u, exec .fMul s = .next t ∧ u = complete t ∧
      t = { s with engine := engineAccepted (.fMul s.curve.fa s.curve.fb) (Config.latency 0x22) s.engine } ∧
      u = { s with curve := { s.curve with fr := u.curve.fr }, engine := engineDone s.engine } ∧
      u.curve.fr.toNat =
        ((s.curve.fa.toNat % (2 ^ 255 - 19)) * (s.curve.fb.toNat % (2 ^ 255 - 19))) % (2 ^ 255 - 19)

/-- F_SQR (42_field.md R316): the square of FA; FB is not read. -/
def Obligations.FSqrSquares : Prop :=
  soleWord 0x00000023 .fSqr ∧ ∀ s : State, isBusy s = false →
    ∃ t u, exec .fSqr s = .next t ∧ u = complete t ∧
      t = { s with engine := engineAccepted (.fSqr s.curve.fa) (Config.latency 0x23) s.engine } ∧
      u = { s with curve := { s.curve with fr := u.curve.fr }, engine := engineDone s.engine } ∧
      u.curve.fr.toNat =
        ((s.curve.fa.toNat % (2 ^ 255 - 19)) * (s.curve.fa.toNat % (2 ^ 255 - 19))) % (2 ^ 255 - 19)

/-- F_INV (42_field.md R318, R305): the Fermat power FA^(p − 2) mod p; FB is not read; zero is no error. -/
def Obligations.FInvInverts : Prop :=
  soleWord 0x00000024 .fInv ∧ ∀ s : State, isBusy s = false →
    ∃ t u, exec .fInv s = .next t ∧ u = complete t ∧
      t = { s with engine := engineAccepted (.fInv s.curve.fa) (Config.latency 0x24) s.engine } ∧
      u = { s with curve := { s.curve with fr := u.curve.fr }, engine := engineDone s.engine } ∧
      u.curve.fr.toNat = (s.curve.fa.toNat % (2 ^ 255 - 19)) ^ (2 ^ 255 - 19 - 2) % (2 ^ 255 - 19)

/-- Inversion (42_field.md R305): the Fermat power of every a, an inverse of every nonzero field element, and 0 at 0. -/
def Obligations.InverseOfNonzero : Prop :=
  (∀ a, feInv a = a ^ (p25519 - 2) % p25519) ∧ (∀ a, 0 < a → a < p25519 → feMul a (feInv a) = 1) ∧ feInv 0 = 0

/-! ### Acceptance, time and completion -/

/-- Completion (30_encoding.md R163): in one step the effect of the command in flight on its snapshot is applied,
ERR ← 0, DONE ← 1, INFLIGHT ← NONE; it comes when time elapses, also with nothing waiting at the port (R162; the event is the
model's choice, log 2). -/
def Obligations.ElapsedTimeCompletes : Prop :=
  ∀ (s : State) (f : InFlight), s.engine.inflight = some f → s.port.inReset = false → nextEvent s = .elapse →
    ∃ t, step s = .next t ∧ t.engine = engineDone s.engine ∧
      t.poly = (effectOf f.job s).poly ∧ t.curve = (effectOf f.job s).curve ∧
      t.port = { s.port with pending := s.port.pending.tail, response := none }

/-- Latency (70_reset_and_hazards.md R520, 10_state.md R60; cycles as events are log 2): with n cycles remaining, n idle clock cycles complete the
command, and before the last of them only INFLIGHT.remaining has moved. -/
def Obligations.ClockCyclesComplete : Prop :=
  ∀ (s : State) (f : InFlight) (rest : List PortEvent),
    s.engine.inflight = some f → 1 ≤ f.remaining → s.port.inReset = false →
    s.port.pending = List.replicate f.remaining .clock ++ rest →
      (∀ k, 1 ≤ k → k < f.remaining → runSteps k s = .next { s with
        engine := { s.engine with inflight := some { f with remaining := f.remaining - k } }
        port := { s.port with pending := List.replicate (f.remaining - k) .clock ++ rest, response := none } }) ∧
      runSteps f.remaining s =
        .next (complete { s with port := { s.port with pending := rest, response := none } })

/-- No agent but hardware reset ends a command without completing it (30_encoding.md R162, 70_reset_and_hazards.md
R502): after a step the same command with the same snapshot is in flight, or it has completed, or reset came. -/
def Obligations.CommandIsNeverCancelled : Prop :=
  ∀ (s t : State) (f : InFlight), s.engine.inflight = some f → step s = .next t →
    (∃ g, t.engine.inflight = some g ∧ g.job = f.job ∧ g.remaining ≤ f.remaining) ∨
    (completesNext s f ∧ t = complete (takeEvent s)) ∨
    nextEvent s = .resetAssert ∨ s.port.inReset = true

/-! ### Reset -/

/-- The reset values (10_state.md R63): right after reset every word of the window reads 0 but ID, the state that is
not readable is 0 too, nothing is in flight and irq is low; SRESET and hardware reset both establish them. -/
def Obligations.ResetValues : Prop :=
  (∀ off row k, selectReg off .word = some (row, k) →
    readReg row.reg k State.reset = if off = 0x000 then 0x13052551 else 0) ∧
  State.reset.poly.ctx.s = 0 ∧ State.reset.poly.ctx.buf = 0 ∧ State.reset.poly.pstate = .idle ∧
  State.reset.engine.inflight = none ∧ irqLine State.reset = false ∧
  (∀ s : State, isBusy s = false → ∃ t, exec .sReset s = .next t ∧ AtReset t) ∧
  ∀ s : State, nextEvent s = .resetAssert → ∃ t, step s = .next t ∧ AtReset t

/-- Hardware reset (70_reset_and_hazards.md R500, R502; log 9): asserting rst_n puts every register at its reset value and
abandons the command in flight; while it is low no transaction is accepted and the values are held; on release the core
is at its reset values and ready. -/
def Obligations.HardwareResetHoldsAndReleases : Prop :=
  ∀ s : State,
    (nextEvent s = .resetAssert → ∃ t, step s = .next t ∧ AtReset t ∧ t.port.inReset = true) ∧
    (s.port.inReset = true →
      (∀ tr, nextEvent s = .bus tr → step s = .fault .transactionInReset) ∧
      (nextEvent s = .clock ∨ nextEvent s = .elapse → ∃ t, step s = .next t ∧ AtReset t ∧ t.port.inReset = true) ∧
      (nextEvent s = .resetRelease → ∃ t, step s = .next t ∧ AtReset t ∧ t.port.inReset = false))

/-! ### Whole-machine rules -/

/-- The invariant `Sound` (Safety.lean) is kept by every step from every state that has it: the context registers in
range (10_state.md R56, R58, R59), the results canonical (R55), the snapshot equal to its registers (20_memory.md R115),
the sticky bit over every error (R37), and the reset values held during reset. -/
def Obligations.StepKeepsSound : Prop := ∀ s t : State, Sound s → step s = .next t → Sound t

/-- The reset state is sound. -/
def Obligations.ResetIsSound : Prop := Sound State.reset

/-- PSTATE (10_state.md R40): its encoding in STATUS; it changes only: to ACTIVE on completion of P_INIT, from ACTIVE to DONE on completion of
P_FINISH, to IDLE on SRESET or hardware reset; and those completions do so. -/
def Obligations.PStateTransitions : Prop :=
  (∀ s : State, (statusWord s).toNat / 2 ^ 8 % 2 ^ 2 =
    match s.poly.pstate with | .idle => 0 | .active => 1 | .done => 2) ∧
  ∀ s t : State, Sound s → step s = .next t →
    (t.poly.pstate ≠ s.poly.pstate →
      (t.poly.pstate = .active ∧ ∃ f, completesNext s f ∧ f.job.instr = .pInit) ∨
      (s.poly.pstate = .active ∧ t.poly.pstate = .done ∧ ∃ f, completesNext s f ∧ f.job.instr = .pFinish) ∨
      (t.poly.pstate = .idle ∧ resetsNext s)) ∧
    (∀ f, completesNext s f → f.job.instr = .pInit → t.poly.pstate = .active) ∧
    (∀ f, completesNext s f → f.job.instr = .pFinish → s.poly.pstate = .active ∧ t.poly.pstate = .done) ∧
    (resetsNext s → t.poly.pstate = .idle)

/-- P.R and P.S change only on completion of P_INIT or P_FINISH, SRESET or hardware reset (10_state.md R56, R57;
40_poly1305.md R211). -/
def Obligations.ContextKeysLatched : Prop :=
  ∀ s t : State, step s = .next t →
    (t.poly.ctx.r ≠ s.poly.ctx.r ∨ t.poly.ctx.s ≠ s.poly.ctx.s) →
      resetsNext s ∨ ∃ f, completesNext s f ∧ (f.job.instr = .pInit ∨ f.job.instr = .pFinish)

/-- No command writes an operand register (10_state.md R45, R46, R50, R51, R53, R54; 92_eei_decisions.md D28): PKEY,
PDATA, XSCALAR, XU, FA and FB change only by a host write to that register while nothing is in flight, or by reset. -/
def Obligations.OperandsOnlyHostWritten : Prop :=
  ∀ s t : State, step s = .next t → ¬resetsNext s →
    let hostWrote (lo hi : Nat) : Prop :=
      isBusy s = false ∧ ∃ off w, nextEvent s = .bus (.write off .word w) ∧ lo ≤ off.toNat ∧ off.toNat ≤ hi
    (t.poly.pkey ≠ s.poly.pkey → hostWrote 0x020 0x03C) ∧
    (t.poly.pdata ≠ s.poly.pdata → hostWrote 0x040 0x04C) ∧
    (t.curve.xscalar ≠ s.curve.xscalar → hostWrote 0x0A0 0x0BC) ∧
    (t.curve.xu ≠ s.curve.xu → hostWrote 0x0C0 0x0DC) ∧
    (t.curve.fa ≠ s.curve.fa → hostWrote 0x100 0x11C) ∧
    (t.curve.fb ≠ s.curve.fb → hostWrote 0x120 0x13C)

/-- Result registers are kept until their next command (10_state.md R47, R52, R55): PTAG changes only on completion of
P_FINISH, XOUT of X_BASE or X_MUL, FR of a field command, and on SRESET or hardware reset. -/
def Obligations.ResultsOnlyOnCompletion : Prop :=
  ∀ s t : State, step s = .next t → ¬resetsNext s →
    let completed (is : List Instr) : Prop := ∃ f, completesNext s f ∧ f.job.instr ∈ is
    (t.poly.ptag ≠ s.poly.ptag → completed [.pFinish]) ∧
    (t.curve.xout ≠ s.curve.xout → completed [.xBase, .xMul]) ∧
    (t.curve.fr ≠ s.curve.fr → completed [.fAdd, .fSub, .fMul, .fSqr, .fInv])

/-- The Curve25519 and field registers never reach the Poly1305 unit, STATUS, the interrupt or the timing
(10_state.md R62, 41_x25519.md R259, 42_field.md R320): two machines that differ in them alone stay so after every step,
and neither stops where the other goes on. -/
def Obligations.CurveValuesStayInCurveUnit : Prop :=
  ∀ s s' t : State, sameButCurve s s' → step s = .next t →
    ∃ t', step s' = .next t' ∧ sameButCurve t t' ∧ statusWord t = statusWord t' ∧ irqLine t = irqLine t'

/-- The Poly1305 registers other than PSTATE never reach the Curve25519 and field registers, ERR, ERRS, OVR, BUSY, the
interrupt or the timing (10_state.md R62, 70_reset_and_hazards.md R520). -/
def Obligations.PolyValuesStayInPolyUnit : Prop :=
  ∀ s s' t : State, sameButPoly s s' → step s = .next t →
    ∃ t', step s' = .next t' ∧ sameButPoly t t' ∧ irqLine t = irqLine t'
end

