-- ==== Sys2Proof/Laws/State.lean ====
section
/-! SUPPORT. One lemma per unit of the state per update, true by rfl, so that no later proof unfolds an update. -/

namespace Sys2Proof.Machine

variable (s : State)

/-! ### dropWrite -/

@[simp] theorem dropWrite_poly : (dropWrite s).poly = s.poly := rfl
@[simp] theorem dropWrite_curve : (dropWrite s).curve = s.curve := rfl
@[simp] theorem dropWrite_engine : (dropWrite s).engine = { s.engine with ovr := true, errs := true } := rfl
@[simp] theorem dropWrite_port : (dropWrite s).port = s.port := rfl

/-! ### completeRejected -/

@[simp] theorem completeRejected_poly (code : ErrCode) : (completeRejected code s).poly = s.poly := rfl
@[simp] theorem completeRejected_curve (code : ErrCode) : (completeRejected code s).curve = s.curve := rfl
@[simp] theorem completeRejected_engine (code : ErrCode) :
    (completeRejected code s).engine = { s.engine with err := code, errs := true, done := true } := rfl
@[simp] theorem completeRejected_port (code : ErrCode) : (completeRejected code s).port = s.port := rfl

/-! ### accept -/

@[simp] theorem accept_poly (j : Job) : (accept j s).poly = s.poly := rfl
@[simp] theorem accept_curve (j : Job) : (accept j s).curve = s.curve := rfl
@[simp] theorem accept_engine (j : Job) :
    (accept j s).engine = { s.engine with inflight := some { job := j, remaining := j.latency } } := rfl
@[simp] theorem accept_port (j : Job) : (accept j s).port = s.port := rfl

/-! ### resetCore -/

@[simp] theorem resetCore_poly : (resetCore s).poly = State.reset.poly := rfl
@[simp] theorem resetCore_curve : (resetCore s).curve = State.reset.curve := rfl
@[simp] theorem resetCore_engine : (resetCore s).engine = State.reset.engine := rfl
@[simp] theorem resetCore_port : (resetCore s).port = s.port := rfl

/-! ### performNop -/

@[simp] theorem performNop_poly : (performNop s).poly = s.poly := rfl
@[simp] theorem performNop_curve : (performNop s).curve = s.curve := rfl
@[simp] theorem performNop_engine : (performNop s).engine = { s.engine with err := .ok, done := true } := rfl
@[simp] theorem performNop_port : (performNop s).port = s.port := rfl

/-! ### performClrErr -/

@[simp] theorem performClrErr_poly : (performClrErr s).poly = s.poly := rfl
@[simp] theorem performClrErr_curve : (performClrErr s).curve = s.curve := rfl
@[simp] theorem performClrErr_engine :
    (performClrErr s).engine = { s.engine with err := .ok, errs := false, ovr := false, done := true } := rfl
@[simp] theorem performClrErr_port : (performClrErr s).port = s.port := rfl

/-! ### effectPInit -/

@[simp] theorem effectPInit_poly (k : BitVec 256) : (effectPInit k s).poly = { s.poly with
      ctx := { r := clampR k, s := padOf k, h := 0, buf := 0, bufLen := 0 }, pstate := .active } := rfl
@[simp] theorem effectPInit_curve (k : BitVec 256) : (effectPInit k s).curve = s.curve := rfl
@[simp] theorem effectPInit_engine (k : BitVec 256) : (effectPInit k s).engine = s.engine := rfl
@[simp] theorem effectPInit_port (k : BitVec 256) : (effectPInit k s).port = s.port := rfl

/-! ### effectPAdd -/

@[simp] theorem effectPAdd_poly (len : BitVec 5) (d : BitVec 128) (c : PolyCtx) :
    (effectPAdd len d c s).poly = { s.poly with ctx := { s.poly.ctx with
      h := addH c (addBytes c d len)
      buf := ofBytes 128 (addRest (addBytes c d len))
      bufLen := BitVec.ofNat 4 (addRest (addBytes c d len)).length } } := rfl
@[simp] theorem effectPAdd_curve (len : BitVec 5) (d : BitVec 128) (c : PolyCtx) :
    (effectPAdd len d c s).curve = s.curve := rfl
@[simp] theorem effectPAdd_engine (len : BitVec 5) (d : BitVec 128) (c : PolyCtx) :
    (effectPAdd len d c s).engine = s.engine := rfl
@[simp] theorem effectPAdd_port (len : BitVec 5) (d : BitVec 128) (c : PolyCtx) :
    (effectPAdd len d c s).port = s.port := rfl

/-! ### effectPFinish -/

@[simp] theorem effectPFinish_poly (c : PolyCtx) : (effectPFinish c s).poly = { s.poly with
      ptag := polyTag (finishH c) c.s.toNat, ctx := PolyCtx.cleared, pstate := .done } := rfl
@[simp] theorem effectPFinish_curve (c : PolyCtx) : (effectPFinish c s).curve = s.curve := rfl
@[simp] theorem effectPFinish_engine (c : PolyCtx) : (effectPFinish c s).engine = s.engine := rfl
@[simp] theorem effectPFinish_port (c : PolyCtx) : (effectPFinish c s).port = s.port := rfl

/-! ### writeFR -/

@[simp] theorem writeFR_poly (x : Nat) : (writeFR x s).poly = s.poly := rfl
@[simp] theorem writeFR_curve (x : Nat) : (writeFR x s).curve = { s.curve with fr := fieldBytes x } := rfl
@[simp] theorem writeFR_engine (x : Nat) : (writeFR x s).engine = s.engine := rfl
@[simp] theorem writeFR_port (x : Nat) : (writeFR x s).port = s.port := rfl

/-! ### writeXOut -/

@[simp] theorem writeXOut_poly (x : BitVec 256) : (writeXOut x s).poly = s.poly := rfl
@[simp] theorem writeXOut_curve (x : BitVec 256) : (writeXOut x s).curve = { s.curve with xout := x } := rfl
@[simp] theorem writeXOut_engine (x : BitVec 256) : (writeXOut x s).engine = s.engine := rfl
@[simp] theorem writeXOut_port (x : BitVec 256) : (writeXOut x s).port = s.port := rfl

/-! ### retire -/

@[simp] theorem retire_poly : (retire s).poly = s.poly := rfl
@[simp] theorem retire_curve : (retire s).curve = s.curve := rfl
@[simp] theorem retire_engine :
    (retire s).engine = { s.engine with err := .ok, done := true, inflight := none } := rfl
@[simp] theorem retire_port : (retire s).port = s.port := rfl

/-! ### respond -/

@[simp] theorem respond_poly (a : Response) : (respond a s).poly = s.poly := rfl
@[simp] theorem respond_curve (a : Response) : (respond a s).curve = s.curve := rfl
@[simp] theorem respond_engine (a : Response) : (respond a s).engine = s.engine := rfl
@[simp] theorem respond_port (a : Response) : (respond a s).port = { s.port with response := some a } := rfl

/-! ### writeCtrl -/

@[simp] theorem writeCtrl_poly (w : Word) : (writeCtrl w s).poly = s.poly := rfl
@[simp] theorem writeCtrl_curve (w : Word) : (writeCtrl w s).curve = s.curve := rfl
@[simp] theorem writeCtrl_engine (w : Word) : (writeCtrl w s).engine = { s.engine with ie := w.getLsbD 0 } := rfl
@[simp] theorem writeCtrl_port (w : Word) : (writeCtrl w s).port = s.port := rfl

/-! ### takeEvent -/

@[simp] theorem takeEvent_poly : (takeEvent s).poly = s.poly := rfl
@[simp] theorem takeEvent_curve : (takeEvent s).curve = s.curve := rfl
@[simp] theorem takeEvent_engine : (takeEvent s).engine = s.engine := rfl
@[simp] theorem takeEvent_port :
    (takeEvent s).port = { s.port with pending := s.port.pending.tail, response := none } := rfl

/-! ### assertReset -/

@[simp] theorem assertReset_poly : (assertReset s).poly = State.reset.poly := rfl
@[simp] theorem assertReset_curve : (assertReset s).curve = State.reset.curve := rfl
@[simp] theorem assertReset_engine : (assertReset s).engine = State.reset.engine := rfl
@[simp] theorem assertReset_port : (assertReset s).port = { s.port with inReset := true } := rfl

/-! ### releaseReset -/

@[simp] theorem releaseReset_poly : (releaseReset s).poly = State.reset.poly := rfl
@[simp] theorem releaseReset_curve : (releaseReset s).curve = State.reset.curve := rfl
@[simp] theorem releaseReset_engine : (releaseReset s).engine = State.reset.engine := rfl
@[simp] theorem releaseReset_port : (releaseReset s).port = { s.port with inReset := false } := rfl

/-! ### enqueue -/

@[simp] theorem enqueue_poly (es : List PortEvent) : (enqueue es s).poly = s.poly := rfl
@[simp] theorem enqueue_curve (es : List PortEvent) : (enqueue es s).curve = s.curve := rfl
@[simp] theorem enqueue_engine (es : List PortEvent) : (enqueue es s).engine = s.engine := rfl
@[simp] theorem enqueue_port (es : List PortEvent) :
    (enqueue es s).port = { s.port with pending := s.port.pending ++ es } := rfl

/-! ### writePKey -/

@[simp] theorem writePKey_poly (k : Nat) (w : Word) :
    (writePKey k w s).poly = { s.poly with pkey := setWordOf s.poly.pkey k w } := rfl
@[simp] theorem writePKey_curve (k : Nat) (w : Word) : (writePKey k w s).curve = s.curve := rfl
@[simp] theorem writePKey_engine (k : Nat) (w : Word) : (writePKey k w s).engine = s.engine := rfl
@[simp] theorem writePKey_port (k : Nat) (w : Word) : (writePKey k w s).port = s.port := rfl

/-! ### writePData -/

@[simp] theorem writePData_poly (k : Nat) (w : Word) :
    (writePData k w s).poly = { s.poly with pdata := setWordOf s.poly.pdata k w } := rfl
@[simp] theorem writePData_curve (k : Nat) (w : Word) : (writePData k w s).curve = s.curve := rfl
@[simp] theorem writePData_engine (k : Nat) (w : Word) : (writePData k w s).engine = s.engine := rfl
@[simp] theorem writePData_port (k : Nat) (w : Word) : (writePData k w s).port = s.port := rfl

/-! ### writeXScalar -/

@[simp] theorem writeXScalar_poly (k : Nat) (w : Word) : (writeXScalar k w s).poly = s.poly := rfl
@[simp] theorem writeXScalar_curve (k : Nat) (w : Word) :
    (writeXScalar k w s).curve = { s.curve with xscalar := setWordOf s.curve.xscalar k w } := rfl
@[simp] theorem writeXScalar_engine (k : Nat) (w : Word) : (writeXScalar k w s).engine = s.engine := rfl
@[simp] theorem writeXScalar_port (k : Nat) (w : Word) : (writeXScalar k w s).port = s.port := rfl

/-! ### writeXU -/

@[simp] theorem writeXU_poly (k : Nat) (w : Word) : (writeXU k w s).poly = s.poly := rfl
@[simp] theorem writeXU_curve (k : Nat) (w : Word) :
    (writeXU k w s).curve = { s.curve with xu := setWordOf s.curve.xu k w } := rfl
@[simp] theorem writeXU_engine (k : Nat) (w : Word) : (writeXU k w s).engine = s.engine := rfl
@[simp] theorem writeXU_port (k : Nat) (w : Word) : (writeXU k w s).port = s.port := rfl

/-! ### writeFA -/

@[simp] theorem writeFA_poly (k : Nat) (w : Word) : (writeFA k w s).poly = s.poly := rfl
@[simp] theorem writeFA_curve (k : Nat) (w : Word) :
    (writeFA k w s).curve = { s.curve with fa := setWordOf s.curve.fa k w } := rfl
@[simp] theorem writeFA_engine (k : Nat) (w : Word) : (writeFA k w s).engine = s.engine := rfl
@[simp] theorem writeFA_port (k : Nat) (w : Word) : (writeFA k w s).port = s.port := rfl

/-! ### writeFB -/

@[simp] theorem writeFB_poly (k : Nat) (w : Word) : (writeFB k w s).poly = s.poly := rfl
@[simp] theorem writeFB_curve (k : Nat) (w : Word) :
    (writeFB k w s).curve = { s.curve with fb := setWordOf s.curve.fb k w } := rfl
@[simp] theorem writeFB_engine (k : Nat) (w : Word) : (writeFB k w s).engine = s.engine := rfl
@[simp] theorem writeFB_port (k : Nat) (w : Word) : (writeFB k w s).port = s.port := rfl

/-! ### writeIntstat -/

@[simp] theorem writeIntstat_poly (w : Word) : (writeIntstat w s).poly = s.poly := by unfold writeIntstat; split <;> rfl
@[simp] theorem writeIntstat_curve (w : Word) : (writeIntstat w s).curve = s.curve := by
  unfold writeIntstat; split <;> rfl
@[simp] theorem writeIntstat_engine (w : Word) : (writeIntstat w s).engine =
    { s.engine with done := if w.getLsbD 0 then false else s.engine.done } := by
  unfold writeIntstat; split <;> simp_all
@[simp] theorem writeIntstat_port (w : Word) : (writeIntstat w s).port = s.port := by unfold writeIntstat; split <;> rfl

/-! ### State.withFetchWord -/

@[simp] theorem withFetchWord_poly (n w : Nat) : (s.withFetchWord n w).poly = s.poly := rfl
@[simp] theorem withFetchWord_curve (n w : Nat) : (s.withFetchWord n w).curve = s.curve := rfl
@[simp] theorem withFetchWord_engine (n w : Nat) : (s.withFetchWord n w).engine = s.engine := rfl
@[simp] theorem withFetchWord_pending (n w : Nat) :
    (s.withFetchWord n w).port.pending = cmdWrite (BitVec.ofNat 32 (w % 2 ^ n)) :: s.port.pending := rfl
@[simp] theorem withFetchWord_inReset (n w : Nat) : (s.withFetchWord n w).port.inReset = false := rfl

/-! ### facingEvent -/

variable (e : PortEvent) (rest : List PortEvent)

@[simp] theorem facingEvent_poly : (facingEvent e rest s).poly = s.poly := rfl
@[simp] theorem facingEvent_curve : (facingEvent e rest s).curve = s.curve := rfl
@[simp] theorem facingEvent_engine : (facingEvent e rest s).engine = s.engine := rfl
@[simp] theorem facingEvent_pending : (facingEvent e rest s).port.pending = e :: rest := rfl
@[simp] theorem facingEvent_inReset : (facingEvent e rest s).port.inReset = false := rfl
@[simp] theorem nextEvent_facingEvent : nextEvent (facingEvent e rest s) = e := rfl

/-- The state a step works on when `e` waits at the port. -/
theorem takeEvent_facingEvent : takeEvent (facingEvent e rest s) =
    { s with port := { inReset := false, pending := rest, response := none, draws := s.port.draws } } := rfl

/-- Two states are equal when their four parts are. -/
theorem State.eq_of_parts {s t : State} (h1 : s.poly = t.poly) (h2 : s.curve = t.curve) (h3 : s.engine = t.engine)
    (h4 : s.port = t.port) : s = t := by
  cases s; cases t; simp_all

end Sys2Proof.Machine
end

