-- ==== Sys2Proof/Laws/Ops.lean ====
section
/-! SUPPORT. What each shared operation can do, said once: the busy check, the context check, the effects, completion,
exec and step. Later proofs cite these instead of unfolding. -/

namespace Sys2Proof.Machine

variable {s t : State}

/-! ### The shared checks -/

theorem unlessBusy_of_busy {f : State → State} (h : isBusy s = true) : unlessBusy f s = dropWrite s := by
  simp [unlessBusy, h]

theorem unlessBusy_of_idle {f : State → State} (h : isBusy s = false) : unlessBusy f s = f s := by
  simp [unlessBusy, h]

theorem whenActive_of_active {f : State → State} (h : s.poly.pstate = .active) : whenActive f s = f s := by
  simp [whenActive, h]

theorem whenActive_of_not_active {f : State → State} (h : s.poly.pstate ≠ .active) :
    whenActive f s = completeRejected .state s := by
  simp [whenActive, h]

/-- The busy check either drops the write or lets it through. -/
theorem unlessBusy_cases (f : State → State) (s : State) :
    (isBusy s = true ∧ unlessBusy f s = dropWrite s) ∨ (isBusy s = false ∧ unlessBusy f s = f s) := by
  cases h : isBusy s
  · exact .inr ⟨rfl, unlessBusy_of_idle h⟩
  · exact .inl ⟨rfl, unlessBusy_of_busy h⟩

theorem isBusy_eq_false_iff : isBusy s = false ↔ s.engine.inflight = none := by
  simp [isBusy]

theorem isBusy_eq_true_iff : isBusy s = true ↔ ∃ f, s.engine.inflight = some f := by
  simp [isBusy, Option.isSome_iff_exists]

/-! ### Completion -/

theorem complete_of_none (h : s.engine.inflight = none) : complete s = s := by simp [complete, h]

theorem complete_of_some {f : InFlight} (h : s.engine.inflight = some f) : complete s = retire (effectOf f.job s) := by
  simp [complete, h]

@[simp] theorem complete_accept (j : Job) (s : State) : complete (accept j s) = retire (effectOf j (accept j s)) := rfl

/-- An effect writes no state of the engine. -/
@[simp] theorem effectOf_engine (j : Job) (s : State) : (effectOf j s).engine = s.engine := by
  cases j <;> simp [effectOf, effectXBase, effectXMul, effectFAdd, effectFSub, effectFMul, effectFSqr, effectFInv]

/-- An effect does not touch the pins. -/
@[simp] theorem effectOf_port (j : Job) (s : State) : (effectOf j s).port = s.port := by
  cases j <;> simp [effectOf, effectXBase, effectXMul, effectFAdd, effectFSub, effectFMul, effectFSqr, effectFInv]

/-- A Curve25519 or field command's effect leaves the Poly1305 unit alone (10_state.md R62). -/
theorem effectOf_poly_of_onCurve {j : Job} (h : j.onCurve = true) (s : State) : (effectOf j s).poly = s.poly := by
  cases j <;> first | simp [Job.onCurve] at h; done | simp [effectOf, effectXBase, effectXMul, effectFAdd, effectFSub, effectFMul, effectFSqr, effectFInv]

/-- A Poly1305 command's effect leaves the Curve25519 and field registers alone (10_state.md R62). -/
theorem effectOf_curve_of_onPoly {j : Job} (h : j.onCurve = false) (s : State) : (effectOf j s).curve = s.curve := by
  cases j <;> first | simp [Job.onCurve] at h; done | simp [effectOf]

@[simp] theorem complete_port (s : State) : (complete s).port = s.port := by
  unfold complete; split <;> simp

theorem complete_engine_of_some {f : InFlight} (h : s.engine.inflight = some f) :
    (complete s).engine = engineDone s.engine := by
  rw [complete_of_some h]; simp [engineDone]

theorem clockTick_of_none (h : s.engine.inflight = none) : clockTick s = s := by simp [clockTick, h]

theorem clockTick_of_last {f : InFlight} (h : s.engine.inflight = some f) (hr : f.remaining ≤ 1) :
    clockTick s = complete s := by simp [clockTick, h, hr]

theorem clockTick_of_more {f : InFlight} (h : s.engine.inflight = some f) (hr : 1 < f.remaining) :
    clockTick s =
      { s with engine := { s.engine with inflight := some { f with remaining := f.remaining - 1 } } } := by
  have : ¬f.remaining ≤ 1 := by omega
  simp [clockTick, h, this]

/-! ### exec -/

/-- Everything a command can do when it is issued while nothing is in flight: it is rejected, it completes at once, or
it is accepted as a job with its own snapshot. -/
inductive Issued (i : Instr) (s : State) : State → Prop
  | rejected (code : ErrCode) (h : code ≠ .ok) (hi : i ≠ .sReset) : Issued i s (completeRejected code s)
  | nop (h : i = .nop) : Issued i s (performNop s)
  | clrErr (h : i = .clrErr) : Issued i s (performClrErr s)
  | sReset (h : i = .sReset) : Issued i s (resetCore s)
  | accepted (j : Job) (h : j.instr = i) (hs : SnapshotSound j s.poly s.curve) : Issued i s (accept j s)

/-- What exec can do, said once: a drop while busy, else one of the ways of `Issued`; always a next state. -/
theorem exec_cases (i : Instr) (s : State) :
    ∃ t, exec i s = .next t ∧
      ((isBusy s = true ∧ t = dropWrite s) ∨ (isBusy s = false ∧ Issued i s t)) := by
  have key : ∀ f : State → State, Issued i s (f s) →
      (isBusy s = true ∧ unlessBusy f s = dropWrite s) ∨ (isBusy s = false ∧ Issued i s (unlessBusy f s)) := by
    intro f hf
    rcases unlessBusy_cases f s with ⟨hb, h⟩ | ⟨hb, h⟩
    · exact .inl ⟨hb, h⟩
    · exact .inr ⟨hb, h ▸ hf⟩
  cases i <;> refine ⟨_, rfl, key _ ?_⟩
  case nop => exact .nop rfl
  case clrErr => exact .clrErr rfl
  case sReset => exact .sReset rfl
  case pInit => exact .accepted (.pInit _) rfl rfl
  case pAdd len =>
    by_cases hl : 16 < len.toNat
    · simpa [hl] using Issued.rejected (i := .pAdd len) (s := s) .len (by decide) (by simp)
    · by_cases ha : s.poly.pstate = .active
      · have : len.toNat ≤ 16 := by omega
        simpa [hl, whenActive_of_active ha] using
          Issued.accepted (i := .pAdd len) (s := s) (.pAdd len _ _) rfl ⟨this, rfl, rfl, ha⟩
      · simpa [hl, whenActive_of_not_active ha] using
          Issued.rejected (i := .pAdd len) (s := s) .state (by decide) (by simp)
  case pFinish =>
    by_cases ha : s.poly.pstate = .active
    · simpa [whenActive_of_active ha] using Issued.accepted (i := .pFinish) (s := s) (.pFinish _) rfl ⟨rfl, ha⟩
    · simpa [whenActive_of_not_active ha] using
        Issued.rejected (i := .pFinish) (s := s) .state (by decide) (by simp)
  case xBase => exact .accepted (.xBase _) rfl rfl
  case xMul => exact .accepted (.xMul _ _) rfl ⟨rfl, rfl⟩
  case fAdd => exact .accepted (.fAdd _ _) rfl ⟨rfl, rfl⟩
  case fSub => exact .accepted (.fSub _ _) rfl ⟨rfl, rfl⟩
  case fMul => exact .accepted (.fMul _ _) rfl ⟨rfl, rfl⟩
  case fSqr => exact .accepted (.fSqr _) rfl rfl
  case fInv => exact .accepted (.fInv _) rfl rfl

end Sys2Proof.Machine
end

