-- ==== Sys2Proof/Laws/Bus.lean ====
section
/-! SUPPORT. The register map's lemmas (10_state.md R31), and what one step can do, said once. -/

namespace Sys2Proof.Machine

/-! ### The register map -/

/-- The rows of the map do not overlap and stand in rising order. -/
theorem registerMap_disjoint :
    registerMap.Pairwise fun a b => a.offset + 4 * a.words ≤ b.offset := by decide

/-- A transaction selects nothing exactly when it is malformed by 20_memory.md R105. -/
theorem selectReg_eq_none_iff (off : BitVec 9) (size : AccessSize) :
    selectReg off size = none ↔ malformed off size = true := by
  have h : ∀ o : Fin 512, ∀ z : Fin 3,
      let size := if z = 0 then AccessSize.byte else if z = 1 then .half else .word
      (selectReg (BitVec.ofFin o) size).isNone = malformed (BitVec.ofFin o) size := by decide +kernel
  have := h off.toFin (match size with | .byte => 0 | .half => 1 | .word => 2)
  rw [← Option.isNone_iff_eq_none]
  cases size <;> simpa using congrArg (· = true) this

/-- What a selected row and word say of the transaction. -/
theorem selectReg_spec {off : BitVec 9} {size : AccessSize} {row : MapRow} {k : Nat}
    (h : selectReg off size = some (row, k)) :
    size = .word ∧ row ∈ registerMap ∧ k < row.words ∧ off.toNat = row.offset + 4 * k := by
  unfold selectReg findReg at h
  split at h
  case isFalse => simp at h
  case isTrue hw =>
    simp only [Option.map_eq_some_iff, Prod.mk.injEq] at h
    obtain ⟨row', hf, rfl, rfl⟩ := h
    have hm := List.mem_of_find?_eq_some hf
    have hp := List.find?_some hf
    simp only [decide_eq_true_eq] at hp
    have h4 : row'.offset % 4 = 0 := by
      have : ∀ r ∈ registerMap, r.offset % 4 = 0 := by decide
      exact this _ hm
    exact ⟨hw.1, hm, by omega, by omega⟩

/-- Every word of every row is selected at its offset. -/
theorem selectReg_of_row (row : MapRow) (hm : row ∈ registerMap) (k : Nat) (hk : k < row.words) :
    selectReg (BitVec.ofNat 9 (row.offset + 4 * k)) .word = some (row, k) := by
  have h : ∀ r ∈ registerMap, ∀ j, j < r.words →
      selectReg (BitVec.ofNat 9 (r.offset + 4 * j)) .word = some (r, j) := by decide +kernel
  exact h row hm k hk

/-- The offset of a selected word, as a number of nine bits. -/
theorem selectReg_offset {off : BitVec 9} {size : AccessSize} {row : MapRow} {k : Nat}
    (h : selectReg off size = some (row, k)) : off = BitVec.ofNat 9 (row.offset + 4 * k) := by
  rw [← (selectReg_spec h).2.2.2, BitVec.ofNat_toNat, BitVec.setWidth_eq]

/-! ### One step -/

/-- The state a write works on: the event taken, the OK response given. -/
def answered (s : State) : State := respond .ok (takeEvent s)

@[simp] theorem answered_poly (s : State) : (answered s).poly = s.poly := rfl
@[simp] theorem answered_curve (s : State) : (answered s).curve = s.curve := rfl
@[simp] theorem answered_engine (s : State) : (answered s).engine = s.engine := rfl
@[simp] theorem answered_inReset (s : State) : (answered s).port.inReset = s.port.inReset := rfl
@[simp] theorem isBusy_answered (s : State) : isBusy (answered s) = isBusy s := rfl
@[simp] theorem isBusy_takeEvent (s : State) : isBusy (takeEvent s) = isBusy s := rfl

/-- Everything one step can do when it answers a next state. -/
inductive StepCase (s : State) : State → Prop
  | held (hr : s.port.inReset = true) : StepCase s (resetCore (takeEvent s))
  | released (hr : s.port.inReset = true) (he : nextEvent s = .resetRelease) :
      StepCase s (releaseReset (takeEvent s))
  | asserted (hr : s.port.inReset = false) (he : nextEvent s = .resetAssert) :
      StepCase s (assertReset (takeEvent s))
  | readOpen (hr : s.port.inReset = false) (off : BitVec 9) (row : MapRow) (k : Nat)
      (he : nextEvent s = .bus (.read off .word)) (hs : selectReg off .word = some (row, k))
      (ho : isOpenRead row.reg s = true) :
      StepCase s (respond (.data (Config.freeWord s.port.draws))
        { takeEvent s with port := { (takeEvent s).port with draws := s.port.draws + 1 } })
  | readExact (hr : s.port.inReset = false) (off : BitVec 9) (row : MapRow) (k : Nat)
      (he : nextEvent s = .bus (.read off .word)) (hs : selectReg off .word = some (row, k))
      (ho : isOpenRead row.reg s = false) :
      StepCase s (respond (.data (readReg row.reg k s)) (takeEvent s))
  | ignored (hr : s.port.inReset = false) (off : BitVec 9) (w : Word) (row : MapRow) (k : Nat)
      (he : nextEvent s = .bus (.write off .word w)) (hs : selectReg off .word = some (row, k))
      (ha : row.access = .ro) : StepCase s (answered s)
  | ctrl (hr : s.port.inReset = false) (w : Word) (he : nextEvent s = .bus (.write 0x00C .word w)) :
      StepCase s (writeCtrl w (answered s))
  | intstat (hr : s.port.inReset = false) (w : Word) (he : nextEvent s = .bus (.write 0x010 .word w)) :
      StepCase s (writeIntstat w (answered s))
  | dropped (hr : s.port.inReset = false) (hb : isBusy s = true) (off : BitVec 9) (w : Word) (row : MapRow) (k : Nat)
      (he : nextEvent s = .bus (.write off .word w)) (hs : selectReg off .word = some (row, k))
      (hd : droppedWhenBusy row.reg = true) : StepCase s (dropWrite (answered s))
  | wrotePKey (hr : s.port.inReset = false) (hb : isBusy s = false) (k : Nat) (hk : k < 8) (w : Word)
      (he : nextEvent s = .bus (.write (BitVec.ofNat 9 (0x020 + 4 * k)) .word w)) :
      StepCase s (writePKey k w (answered s))
  | wrotePData (hr : s.port.inReset = false) (hb : isBusy s = false) (k : Nat) (hk : k < 4) (w : Word)
      (he : nextEvent s = .bus (.write (BitVec.ofNat 9 (0x040 + 4 * k)) .word w)) :
      StepCase s (writePData k w (answered s))
  | wroteXScalar (hr : s.port.inReset = false) (hb : isBusy s = false) (k : Nat) (hk : k < 8) (w : Word)
      (he : nextEvent s = .bus (.write (BitVec.ofNat 9 (0x0A0 + 4 * k)) .word w)) :
      StepCase s (writeXScalar k w (answered s))
  | wroteXU (hr : s.port.inReset = false) (hb : isBusy s = false) (k : Nat) (hk : k < 8) (w : Word)
      (he : nextEvent s = .bus (.write (BitVec.ofNat 9 (0x0C0 + 4 * k)) .word w)) :
      StepCase s (writeXU k w (answered s))
  | wroteFA (hr : s.port.inReset = false) (hb : isBusy s = false) (k : Nat) (hk : k < 8) (w : Word)
      (he : nextEvent s = .bus (.write (BitVec.ofNat 9 (0x100 + 4 * k)) .word w)) :
      StepCase s (writeFA k w (answered s))
  | wroteFB (hr : s.port.inReset = false) (hb : isBusy s = false) (k : Nat) (hk : k < 8) (w : Word)
      (he : nextEvent s = .bus (.write (BitVec.ofNat 9 (0x120 + 4 * k)) .word w)) :
      StepCase s (writeFB k w (answered s))
  | issued (w : Word) (i : Instr) (t : State) (hi : issuesNext w s) (hd : (decode w).instr? = some i)
      (ht : Issued i (answered s) t) : StepCase s t
  | illegal (w : Word) (hi : issuesNext w s) (hd : decode w = .illegal) :
      StepCase s (completeRejected .illegal (answered s))
  | ticked (hr : s.port.inReset = false) (he : nextEvent s = .clock) (f : InFlight) (hf : s.engine.inflight = some f)
      (hm : 1 < f.remaining) :
      StepCase s { takeEvent s with
        engine := { s.engine with inflight := some { f with remaining := f.remaining - 1 } } }
  | completed (f : InFlight) (hc : completesNext s f) : StepCase s (complete (takeEvent s))
  | idled (hr : s.port.inReset = false)
      (he : nextEvent s = .resetRelease ∨ ((nextEvent s = .clock ∨ nextEvent s = .elapse) ∧
        s.engine.inflight = none)) : StepCase s (takeEvent s)

/-- The register of a selected row decides the row. -/
theorem row_of_reg {row : MapRow} (hm : row ∈ registerMap) :
    row = match row.reg with
      | .id => ⟨0x000, .id, 1, .ro⟩ | .cmd => ⟨0x004, .cmd, 1, .wo⟩ | .status => ⟨0x008, .status, 1, .ro⟩
      | .ctrl => ⟨0x00C, .ctrl, 1, .rw⟩ | .intstat => ⟨0x010, .intstat, 1, .rw1c⟩ | .pkey => ⟨0x020, .pkey, 8, .rw⟩
      | .pdata => ⟨0x040, .pdata, 4, .rw⟩ | .ptag => ⟨0x050, .ptag, 4, .ro⟩ | .pacc => ⟨0x060, .pacc, 5, .ro⟩
      | .pr => ⟨0x080, .pr, 4, .ro⟩ | .xscalar => ⟨0x0A0, .xscalar, 8, .rw⟩ | .xu => ⟨0x0C0, .xu, 8, .rw⟩
      | .xout => ⟨0x0E0, .xout, 8, .ro⟩ | .fa => ⟨0x100, .fa, 8, .rw⟩ | .fb => ⟨0x120, .fb, 8, .rw⟩
      | .fr => ⟨0x140, .fr, 8, .ro⟩ := by
  revert row hm; decide

/-- What one step can do, said once. -/
theorem step_cases {s t : State} (h : step s = .next t) : StepCase s t := by
  unfold step portEvent at h
  split at h
  case isTrue hr =>
    have hr : s.port.inReset = true := hr
    unfold heldEvent at h
    split at h <;> first
      | cases h; done
      | (cases h; first | exact .released hr ‹_› | exact .held hr)
  case isFalse hr =>
    have hr : s.port.inReset = false := by simpa using hr
    unfold runningEvent at h
    split at h
    case h_1 off size he =>
      unfold busRead at h
      split at h
      · cases h
      · rename_i row k hs
        obtain ⟨rfl, -⟩ := selectReg_spec hs
        split at h <;> cases h
        · exact .readOpen hr off row k he hs ‹_›
        · exact .readExact hr off row k he hs (by simpa using ‹¬isOpenRead _ _ = true›)
    case h_2 off size w he =>
      unfold busWrite at h
      split at h
      · cases h
      · rename_i row k hs
        obtain ⟨rfl, hm, hk, -⟩ := selectReg_spec hs
        have hoff := selectReg_offset hs
        have hrow := row_of_reg hm
        change writeReg row.reg k w (answered s) = .next t at h
        have drop : ∀ f : State → State, droppedWhenBusy row.reg = true →
            .next (unlessBusy f (answered s)) = (Host.Outcome.next t : Host.Outcome State Fault Refusal) →
            (isBusy s = false → StepCase s (f (answered s))) → StepCase s t := by
          intro f hd ht hf
          cases ht
          rcases unlessBusy_cases f (answered s) with ⟨hb, e⟩ | ⟨hb, e⟩ <;> rw [e]
          · exact .dropped hr hb off w row k he hs hd
          · exact hf hb
        generalize hreg : row.reg = r at h hrow drop
        cases r <;> simp only at hrow <;> subst hrow <;> simp only [writeReg] at h
        case id => cases h; exact .ignored hr off w _ k he hs rfl
        case status => cases h; exact .ignored hr off w _ k he hs rfl
        case ptag => cases h; exact .ignored hr off w _ k he hs rfl
        case pacc => cases h; exact .ignored hr off w _ k he hs rfl
        case pr => cases h; exact .ignored hr off w _ k he hs rfl
        case xout => cases h; exact .ignored hr off w _ k he hs rfl
        case fr => cases h; exact .ignored hr off w _ k he hs rfl
        case ctrl =>
          cases h
          obtain rfl : k = 0 := by simpa using hk
          exact .ctrl hr w (he.trans (by rw [hoff]; rfl))
        case intstat =>
          cases h
          obtain rfl : k = 0 := by simpa using hk
          exact .intstat hr w (he.trans (by rw [hoff]; rfl))
        case pkey => exact drop _ rfl h fun hb => .wrotePKey hr hb k hk w (by rw [he, hoff])
        case pdata => exact drop _ rfl h fun hb => .wrotePData hr hb k hk w (by rw [he, hoff])
        case xscalar => exact drop _ rfl h fun hb => .wroteXScalar hr hb k hk w (by rw [he, hoff])
        case xu => exact drop _ rfl h fun hb => .wroteXU hr hb k hk w (by rw [he, hoff])
        case fa => exact drop _ rfl h fun hb => .wroteFA hr hb k hk w (by rw [he, hoff])
        case fb => exact drop _ rfl h fun hb => .wroteFB hr hb k hk w (by rw [he, hoff])
        case cmd =>
          obtain rfl : k = 0 := by simpa using hk
          have he' : nextEvent s = cmdWrite w := he.trans (by rw [hoff]; rfl)
          have run : ∀ i, (decode w).instr? = some i → exec i (answered s) = .next t → StepCase s t := by
            intro i hi ht
            obtain ⟨u, hu, hc⟩ := exec_cases i (answered s)
            obtain rfl : u = t := by rw [hu] at ht; cases ht; rfl
            rcases hc with ⟨hb, rfl⟩ | ⟨hb, hc⟩
            · exact .dropped hr hb off w _ 0 he hs rfl
            · exact .issued w i _ ⟨hr, hb, he'⟩ hi hc
          unfold issueWord at h
          split at h
          · rename_i i hd; exact run i (by simp [hd, Decoded.instr?]) h
          · rename_i len hd; exact run _ (by simp [hd, Decoded.instr?]) h
          · rename_i hd
            exact drop _ rfl h fun hb => .illegal w ⟨hr, hb, he'⟩ hd
    case h_3 he =>
      cases h
      cases hf : s.engine.inflight with
      | none =>
        rw [clockTick_of_none (by simpa using hf)]
        exact .idled hr (.inr ⟨.inl he, hf⟩)
      | some f =>
        have hf' : (takeEvent s).engine.inflight = some f := by simpa using hf
        by_cases hm : 1 < f.remaining
        · rw [clockTick_of_more hf' hm]
          exact .ticked hr he f hf hm
        · rw [clockTick_of_last hf' (by omega)]
          exact .completed f ⟨hr, hf, .inr ⟨he, by omega⟩⟩
    case h_4 he =>
      cases h
      cases hf : s.engine.inflight with
      | none =>
        rw [elapse, complete_of_none (by simpa using hf)]
        exact .idled hr (.inr ⟨.inr he, hf⟩)
      | some f => exact .completed f ⟨hr, hf, .inl he⟩
    case h_5 he => cases h; exact .asserted hr he
    case h_6 he => cases h; exact .idled hr (.inl he)

/-- The step of a completion (30_encoding.md R163). -/
theorem step_of_completesNext {s : State} {f : InFlight} (h : completesNext s f) :
    step s = .next (complete (takeEvent s)) := by
  obtain ⟨hr, hf, he⟩ := h
  rcases he with he | ⟨he, hm⟩
  · simp [step, portEvent, runningEvent, he, hr, elapse]
  · simp [step, portEvent, runningEvent, he, hr, clockTick_of_last (s := takeEvent s) hf hm]

/-- The step of an issued command word (30_encoding.md R160). -/
theorem step_of_issuesNext {s : State} {w : Word} (h : issuesNext w s) : step s = issueWord w (answered s) := by
  obtain ⟨hr, -, he⟩ := h
  have hsel : selectReg cmdOffset .word = some (⟨0x004, .cmd, 1, .wo⟩, 0) := by decide
  simp [step, portEvent, runningEvent, he, hr, cmdWrite, busWrite, hsel, writeReg, answered]

end Sys2Proof.Machine
end

