-- ==== Sys2Proof/Laws/Bytes.lean ====
section
/-! SUPPORT. Byte arrays held as bit vectors: bytes, little-endian integers and bus words (00_scope.md R8, 20_memory.md
R102), in the terms of each other. -/

namespace Sys2Proof.Machine

/-! ### leNat -/

@[simp] theorem leNat_nil : leNat [] = 0 := rfl
@[simp] theorem leNat_cons (b : Byte) (bs : List Byte) : leNat (b :: bs) = b.toNat + 256 * leNat bs := rfl

theorem leNat_lt (bs : List Byte) : leNat bs < 2 ^ (8 * bs.length) := by
  induction bs with
  | nil => simp
  | cons b bs ih =>
    have hb := b.isLt
    have : 2 ^ (8 * (b :: bs).length) = 256 * 2 ^ (8 * bs.length) := by
      rw [List.length_cons, Nat.mul_add, Nat.pow_add]; norm_num [Nat.mul_comm]
    rw [this, leNat_cons]
    omega

theorem leNat_append (as bs : List Byte) : leNat (as ++ bs) = leNat as + 2 ^ (8 * as.length) * leNat bs := by
  induction as with
  | nil => simp
  | cons a as ih =>
    have : 2 ^ (8 * (a :: as).length) = 256 * 2 ^ (8 * as.length) := by
      rw [List.length_cons, Nat.mul_add, Nat.pow_add]; norm_num [Nat.mul_comm]
    rw [List.cons_append, leNat_cons, leNat_cons, ih, this]
    ring

theorem leNat_replicate_zero (n : Nat) : leNat (List.replicate n 0) = 0 := by
  induction n with
  | zero => rfl
  | succ n ih => rw [List.replicate_succ, leNat_cons, ih]; rfl

/-! ### byteAt and bytesOf -/

theorem byteAt_toNat {w : Nat} (x : BitVec w) (i : Nat) : (byteAt x i).toNat = x.toNat / 2 ^ (8 * i) % 256 := by
  simp [byteAt, BitVec.extractLsb'_toNat, Nat.shiftRight_eq_div_pow]

theorem getLsbD_byteAt {w : Nat} (x : BitVec w) (i j : Nat) :
    (byteAt x i).getLsbD j = (decide (j < 8) && x.getLsbD (8 * i + j)) := by
  simp [byteAt]

@[simp] theorem length_bytesOf {w : Nat} (x : BitVec w) (n : Nat) : (bytesOf x n).length = n := by simp [bytesOf]

theorem bytesOf_succ {w : Nat} (x : BitVec w) (n : Nat) : bytesOf x (n + 1) = bytesOf x n ++ [byteAt x n] := by
  simp [bytesOf, List.range_succ]

theorem getElem_bytesOf {w : Nat} (x : BitVec w) (n i : Nat) (h : i < (bytesOf x n).length) :
    (bytesOf x n)[i] = byteAt x i := by simp [bytesOf]

theorem take_bytesOf {w : Nat} (x : BitVec w) (n k : Nat) (h : k ≤ n) : (bytesOf x n).take k = bytesOf x k := by
  simp [bytesOf, ← List.map_take, List.take_range, Nat.min_eq_left h]

/-- LE of the first n bytes of a register (00_scope.md R8). -/
theorem leNat_bytesOf {w : Nat} (x : BitVec w) (n : Nat) : leNat (bytesOf x n) = x.toNat % 2 ^ (8 * n) := by
  induction n with
  | zero => simp [bytesOf, Nat.mod_one]
  | succ n ih =>
    rw [bytesOf_succ, leNat_append, ih, length_bytesOf, leNat_cons, leNat_nil, byteAt_toNat, Nat.mul_add 8 n 1,
      Nat.pow_add, Nat.mod_mul]
    simp

/-- LE of a whole register is its number. -/
theorem leNat_bytesOf_of_le {w : Nat} (x : BitVec w) (n : Nat) (h : w ≤ 8 * n) : leNat (bytesOf x n) = x.toNat := by
  rw [leNat_bytesOf]
  exact Nat.mod_eq_of_lt (lt_of_lt_of_le x.isLt (Nat.pow_le_pow_right (by norm_num) h))

theorem leNat_drop_bytesOf {w : Nat} (x : BitVec w) (n k : Nat) (h : k ≤ n) (hw : w ≤ 8 * n) :
    leNat ((bytesOf x n).drop k) = x.toNat / 2 ^ (8 * k) := by
  have h1 := leNat_append ((bytesOf x n).take k) ((bytesOf x n).drop k)
  rw [List.take_append_drop, take_bytesOf x n k h, length_bytesOf, leNat_bytesOf_of_le x n hw, leNat_bytesOf] at h1
  have h2 := Nat.mod_add_div x.toNat (2 ^ (8 * k))
  have h3 : 2 ^ (8 * k) * leNat ((bytesOf x n).drop k) = 2 ^ (8 * k) * (x.toNat / 2 ^ (8 * k)) := by omega
  exact Nat.eq_of_mul_eq_mul_left (by positivity) h3

/-! ### ofBytes -/

theorem ofBytes_toNat {w : Nat} (bs : List Byte) (h : 8 * bs.length ≤ w) : (ofBytes w bs).toNat = leNat bs := by
  rw [ofBytes, BitVec.toNat_ofNat]
  exact Nat.mod_eq_of_lt (lt_of_lt_of_le (leNat_lt bs) (Nat.pow_le_pow_right (by norm_num) h))

theorem leNat_inj {as bs : List Byte} (hl : as.length = bs.length) (h : leNat as = leNat bs) : as = bs := by
  induction as generalizing bs with
  | nil => exact (List.length_eq_zero_iff.mp hl.symm).symm
  | cons a as ih =>
    cases bs with
    | nil => simp at hl
    | cons b bs =>
      simp only [leNat_cons] at h
      have ha := a.isLt
      have hb := b.isLt
      have h1 : a.toNat = b.toNat := by omega
      have h2 : leNat as = leNat bs := by omega
      rw [BitVec.eq_of_toNat_eq h1, ih (by simpa using hl) h2]

/-- The bytes of a register made of a byte array are those bytes, then zeros. -/
theorem bytesOf_ofBytes {w n : Nat} (bs : List Byte) (hn : bs.length ≤ n) (hw : 8 * n ≤ w) :
    bytesOf (ofBytes w bs) n = bs ++ List.replicate (n - bs.length) 0 := by
  apply leNat_inj
  · simp; omega
  · rw [leNat_bytesOf, ofBytes_toNat bs (by omega), leNat_append, leNat_replicate_zero, Nat.mul_zero, Nat.add_zero]
    exact Nat.mod_eq_of_lt (lt_of_lt_of_le (leNat_lt bs) (Nat.pow_le_pow_right (by norm_num) (by omega)))

theorem ofBytes_bytesOf {w : Nat} (x : BitVec w) (n : Nat) (h : w ≤ 8 * n) : ofBytes w (bytesOf x n) = x := by
  apply BitVec.eq_of_toNat_eq
  rw [ofBytes, leNat_bytesOf_of_le x n h, BitVec.toNat_ofNat, Nat.mod_eq_of_lt x.isLt]

/-! ### setByte, words -/

theorem getLsbD_setByte {w : Nat} (x : BitVec w) (i : Nat) (b : Byte) (j : Nat) (hj : j < w) :
    (setByte x i b).getLsbD j =
      if 8 * i ≤ j ∧ j < 8 * i + 8 then b.getLsbD (j - 8 * i) else x.getLsbD j := by
  have hff : ∀ k, (0xFF#8).getLsbD k = decide (k < 8) := by
    intro k
    by_cases hk : k < 8
    · have : ∀ k < 8, (0xFF#8).getLsbD k = true := by decide
      simp [hk, this k hk]
    · simp [hk, BitVec.getLsbD_of_ge _ _ (Nat.le_of_not_lt hk)]
  simp only [setByte, BitVec.getLsbD_or, BitVec.getLsbD_and, BitVec.getLsbD_not, BitVec.getLsbD_shiftLeft,
    BitVec.getLsbD_setWidth, hj, decide_true, Bool.true_and, hff]
  have hlt : j - 8 * i < w := by omega
  simp only [hlt, decide_true, Bool.true_and]
  by_cases h1 : 8 * i ≤ j
  · have h1' : ¬j < 8 * i := by omega
    by_cases h2 : j < 8 * i + 8
    · have h3 : j - 8 * i < 8 := by omega
      simp [h1, h1', h2, h3]
    · have h3 : ¬j - 8 * i < 8 := by omega
      simp [h1, h1', h2, h3, BitVec.getLsbD_of_ge b _ (Nat.le_of_not_lt h3)]
  · have h1' : j < 8 * i := by omega
    simp [h1, h1']

/-- A byte of a register after one of its bytes was set. -/
theorem byteAt_setByte {w : Nat} (x : BitVec w) (i k : Nat) (b : Byte) (hk : 8 * k + 8 ≤ w) :
    byteAt (setByte x i b) k = if k = i then b else byteAt x k := by
  apply BitVec.eq_of_getLsbD_eq
  intro j hj
  rw [getLsbD_byteAt, getLsbD_setByte _ _ _ _ (by omega)]
  by_cases h : k = i
  · subst h
    have : 8 * k ≤ 8 * k + j ∧ 8 * k + j < 8 * k + 8 := by omega
    simp [hj, this]
  · have : ¬(8 * i ≤ 8 * k + j ∧ 8 * k + j < 8 * i + 8) := by omega
    rw [if_neg this, if_neg h, getLsbD_byteAt]

/-- Two registers with the same bytes are equal. -/
theorem eq_of_byteAt_eq {n : Nat} {x y : BitVec (8 * n)} (h : ∀ i, i < n → byteAt x i = byteAt y i) : x = y := by
  apply BitVec.eq_of_getLsbD_eq
  intro j hj
  have h1 := congrArg (fun b => b.getLsbD (j % 8)) (h (j / 8) (by omega))
  simp only [getLsbD_byteAt] at h1
  have : 8 * (j / 8) + j % 8 = j := by omega
  have h8 : j % 8 < 8 := by omega
  simpa [this, h8] using h1

/-- Byte j of word k of a register is its byte 4k + j (20_memory.md R102). -/
theorem byteAt_wordOf {w : Nat} (x : BitVec w) (k j : Nat) (hj : j < 4) :
    byteAt (wordOf x k) j = byteAt x (4 * k + j) := by
  apply BitVec.eq_of_getLsbD_eq
  intro i hi
  have h32 : 8 * j + i < 32 := by omega
  have he : 32 * k + (8 * j + i) = 8 * (4 * k + j) + i := by omega
  rw [getLsbD_byteAt, getLsbD_byteAt, wordOf, BitVec.getLsbD_extractLsb', he]
  simp [hi, h32]

theorem wordOf_toNat {w : Nat} (x : BitVec w) (k : Nat) :
    (wordOf x k).toNat = x.toNat / 2 ^ (32 * k) % 2 ^ 32 := by
  simp [wordOf, BitVec.extractLsb'_toNat, Nat.shiftRight_eq_div_pow]

/-- The bytes of a register after a word write (20_memory.md R102). -/
theorem byteAt_setWordOf {w : Nat} (x : BitVec w) (k i : Nat) (v : Word) (hi : 8 * i + 8 ≤ w) :
    byteAt (setWordOf x k v) i = if i / 4 = k then byteAt v (i % 4) else byteAt x i := by
  unfold setWordOf
  simp only [byteAt_setByte _ _ _ _ hi]
  by_cases h : i / 4 = k
  · have h4 : i % 4 = 0 ∨ i % 4 = 1 ∨ i % 4 = 2 ∨ i % 4 = 3 := by omega
    rcases h4 with h4 | h4 | h4 | h4 <;> simp only [h, h4, if_true] <;>
      (first
        | (rw [if_pos (by omega)])
        | (rw [if_neg (by omega), if_pos (by omega)])
        | (rw [if_neg (by omega), if_neg (by omega), if_pos (by omega)])
        | (rw [if_neg (by omega), if_neg (by omega), if_neg (by omega), if_pos (by omega)]))
  · rw [if_neg (by omega), if_neg (by omega), if_neg (by omega), if_neg (by omega), if_neg h]

/-- A register is the sum of its words. -/
theorem toNat_eq_sum_wordOf {n : Nat} (x : BitVec (32 * n)) :
    ((List.range n).map fun k => (wordOf x k).toNat * 2 ^ (32 * k)).sum = x.toNat := by
  have h : ∀ m, ((List.range m).map fun k => (wordOf x k).toNat * 2 ^ (32 * k)).sum = x.toNat % 2 ^ (32 * m) := by
    intro m
    induction m with
    | zero => simp [Nat.mod_one]
    | succ m ih =>
      rw [List.range_succ, List.map_append, List.sum_append, ih]
      simp only [List.map_cons, List.map_nil, List.sum_cons, List.sum_nil, Nat.add_zero]
      rw [wordOf_toNat, Nat.mul_add 32 m 1, Nat.pow_add, Nat.mod_mul, Nat.mul_comm (2 ^ (32 * m))]
  rw [h n, Nat.mod_eq_of_lt x.isLt]

end Sys2Proof.Machine
end

