-- ==== Sys2Proof/Laws/Decode.lean ====
section
/-! SUPPORT. The fields of a command word as numbers, the opcode map in both directions, and when a word decodes to a
command (30_encoding.md R140, R143, R145). -/

namespace Sys2Proof

theorem opField_toNat (w : Word) : (opField w).toNat = w.toNat % 2 ^ 8 := by
  simp [opField, BitVec.extractLsb'_toNat]

theorem lenField_toNat (w : Word) : (lenField w).toNat = w.toNat / 2 ^ 8 % 2 ^ 5 := by
  simp [lenField, BitVec.extractLsb'_toNat, Nat.shiftRight_eq_div_pow]

theorem rsvField_toNat (w : Word) : (rsvField w).toNat = w.toNat / 2 ^ 13 := by
  have := w.isLt
  simp [rsvField, BitVec.extractLsb'_toNat, Nat.shiftRight_eq_div_pow]
  omega

/-- An opcode is undefined exactly when it is not in the map of 30_encoding.md R143. -/
theorem instrOfOpcode_eq_none_iff (op : BitVec 8) (len : BitVec 5) :
    instrOfOpcode op len = none ↔
      op.toNat ∉ [0x00, 0x01, 0x02, 0x03, 0x10, 0x11, 0x20, 0x21, 0x22, 0x23, 0x24, 0xF0, 0xFF] := by
  have h : ∀ o : Fin 256, ((instrOfOpcode (BitVec.ofFin o) len).isNone = true ↔
      o.val ∉ [0x00, 0x01, 0x02, 0x03, 0x10, 0x11, 0x20, 0x21, 0x22, 0x23, 0x24, 0xF0, 0xFF]) := by
    revert len; decide +kernel
  simpa using h op.toFin

/-- The instruction of an opcode has that opcode, and its LEN where it is P_ADD. -/
theorem instrOfOpcode_eq_some {op : BitVec 8} {len : BitVec 5} {i : Instr} (h : instrOfOpcode op len = some i) :
    opcode i = op ∧ lenOf i = if op = 2 then len else 0 := by
  revert h
  unfold instrOfOpcode
  split <;> simp <;> rintro rfl <;> simp [opcode, lenOf]

theorem instrOfOpcode_opcode (i : Instr) : instrOfOpcode (opcode i) (lenOf i) = some i := by
  cases i <;> rfl

theorem encode_toNat (i : Instr) : (encode i).toNat = (opcode i).toNat + 2 ^ 8 * (lenOf i).toNat := by
  cases i <;> try rfl
  rename_i len
  revert len; decide

theorem wellFormed_iff (i : Instr) : i.wellFormed = true ↔ (lenOf i).toNat ≤ 16 := by
  cases i <;> simp [Instr.wellFormed, lenOf]

/-- When a word decodes to a command, check by check (30_encoding.md R145). -/
theorem decode_eq_cmd_iff (w : Word) (i : Instr) :
    decode w = .cmd i ↔
      instrOfOpcode (opField w) (lenField w) = some i ∧ rsvField w = 0 ∧ (opField w = 2 ∨ lenField w = 0) ∧
        ¬(opField w = 2 ∧ 16 < (lenField w).toNat) := by
  unfold decode
  split
  · simp_all
  · split <;> [simp_all; split <;> [simp_all; split <;> simp_all]]
    tauto

end Sys2Proof
end

