-- ==== Sys2Proof/Laws/PerInstr.lean ====
section
/-! SUPPORT. A statement about every instruction, one lemma per constructor. -/

namespace Sys2Proof.Laws.EncodeFields

/-- The three fields of an encoded instruction are its opcode, its LEN and RSV = 0 (30_encoding.md R140). -/
def Statement (i : Instr) : Prop :=
  opField (encode i) = opcode i ∧ lenField (encode i) = lenOf i ∧ rsvField (encode i) = 0

theorem nop : Statement .nop := by unfold Statement; decide
theorem pInit : Statement .pInit := by unfold Statement; decide
theorem pAdd : ∀ len, Statement (.pAdd len) := by unfold Statement; decide
theorem pFinish : Statement .pFinish := by unfold Statement; decide
theorem xBase : Statement .xBase := by unfold Statement; decide
theorem xMul : Statement .xMul := by unfold Statement; decide
theorem fAdd : Statement .fAdd := by unfold Statement; decide
theorem fSub : Statement .fSub := by unfold Statement; decide
theorem fMul : Statement .fMul := by unfold Statement; decide
theorem fSqr : Statement .fSqr := by unfold Statement; decide
theorem fInv : Statement .fInv := by unfold Statement; decide
theorem clrErr : Statement .clrErr := by unfold Statement; decide
theorem sReset : Statement .sReset := by unfold Statement; decide

end Sys2Proof.Laws.EncodeFields
end

