-- ==== Sys2Proof/Laws/Run.lean ====
section
/-! SUPPORT. Runs: the equations of `runSteps`, its agreement with the host's run, and one step of a run over events. -/

namespace Sys2Proof.Machine

/-- The model's run is the host's run of the machine. -/
theorem runSteps_eq_core_run (k : Nat) (s : State) : runSteps k s = Host.Core.run Sys2Proof.core k s := by
  induction k generalizing s with
  | zero => rfl
  | succ k ih =>
    have e := Host.Core.run.eq_2 Sys2Proof.core s k
    have hs : ∀ o, step s = o → Sys2Proof.core.step s = o := fun _ h => h
    rw [runSteps]
    cases h : step s with
    | next t => rw [hs _ h] at e; exact (ih t).trans e.symm
    | fault r => rw [hs _ h] at e; exact e.symm
    | refused r => rw [hs _ h] at e; exact e.symm

@[simp] theorem runSteps_zero (s : State) : runSteps 0 s = .next s := rfl

theorem runSteps_succ_of_next {k : Nat} {s t : State} (h : step s = .next t) : runSteps (k + 1) s = runSteps k t := by
  simp [runSteps, h]

/-- Two runs in a row. -/
theorem runSteps_add {a b : Nat} {s t : State} (h : runSteps a s = .next t) : runSteps (a + b) s = runSteps b t := by
  induction a generalizing s with
  | zero => cases h; rw [Nat.zero_add]
  | succ a ih =>
    rw [Nat.add_right_comm]
    simp only [runSteps] at h ⊢
    cases hs : step s with
    | next u => rw [hs] at h; exact ih h
    | fault r => rw [hs] at h; cases h
    | refused r => rw [hs] at h; cases h

end Sys2Proof.Machine
end

