-- ==== Sys2Proof/Tests/Slice0.lean ====
section
/-! SUPPORT. The model's own small tests. Expected values come from spec/: the vectors of 95_test_vectors.md, the examples
of the command rules, or a word written out from 30_encoding.md R140 and R147. -/

namespace Sys2Proof.Tests

-- One theorem after another: the kernel evaluations do not wait for each other in threads of their own.
set_option Elab.async false

open Sys2Proof.Machine

/-- The next state of an outcome, for looking at one field of it. -/
def after (o : Host.Outcome State Fault Refusal) : Option State :=
  match o with
  | .next t => some t
  | .fault _ => none
  | .refused _ => none

/-- A reset core about to see one event. -/
def facing (e : PortEvent) : State := enqueue [e] State.reset

/-- A reset core with a command in flight. -/
def inFlight (j : Job) : State := accept j State.reset

/-- A reset core with a Poly1305 context open. -/
def openCtx (ctx : PolyCtx) : State :=
  { State.reset with poly := { State.reset.poly with ctx := ctx, pstate := .active } }

/-- The key of 95_test_vectors.md V1. -/
def keyV1 : BitVec 256 := 0x1bf54941aff6bf4afdb20dfb8a800301a806d542fe52447f336d555778bed685#256

/-- V1's context after P_INIT. -/
def ctxV1 : PolyCtx :=
  { r := 0x0806d5400e52447c036d555408bed685#128, s := 0x1bf54941aff6bf4afdb20dfb8a800301#128, h := 0, buf := 0
    bufLen := 0 }

/-- Alice's private key, 95_test_vectors.md V3. -/
def aliceKey : BitVec 256 := 0x2a2cb91da5fb77b12a99c0eb872f4cdf4566b25172c1163c7da518730a6d0777#256

/-! ### Well-formedness and decoding (30_encoding.md R145, R147; 95_test_vectors.md V41) -/

theorem test_wellFormed_refuses_pAdd_17 : (Instr.pAdd 17).wellFormed = false := by decide
theorem test_wellFormed_accepts_pAdd_16 : (Instr.pAdd 16).wellFormed = true := by decide

theorem test_decode_nop : decode 0b00000000000000000000000000000000#32 = .cmd .nop := by decide
theorem test_decode_pInit : decode 0b00000000000000000000000000000001#32 = .cmd .pInit := by decide
theorem test_decode_pAdd_16 : decode 0b00000000000000000001000000000010#32 = .cmd (.pAdd 16) := by decide
theorem test_decode_pFinish : decode 0b00000000000000000000000000000011#32 = .cmd .pFinish := by decide
theorem test_decode_xBase : decode 0b00000000000000000000000000010000#32 = .cmd .xBase := by decide
theorem test_decode_xMul : decode 0b00000000000000000000000000010001#32 = .cmd .xMul := by decide
theorem test_decode_fAdd : decode 0b00000000000000000000000000100000#32 = .cmd .fAdd := by decide
theorem test_decode_fSub : decode 0b00000000000000000000000000100001#32 = .cmd .fSub := by decide
theorem test_decode_fMul : decode 0b00000000000000000000000000100010#32 = .cmd .fMul := by decide
theorem test_decode_fSqr : decode 0b00000000000000000000000000100011#32 = .cmd .fSqr := by decide
theorem test_decode_fInv : decode 0b00000000000000000000000000100100#32 = .cmd .fInv := by decide
theorem test_decode_clrErr : decode 0b00000000000000000000000011110000#32 = .cmd .clrErr := by decide
theorem test_decode_sReset : decode 0b00000000000000000000000011111111#32 = .cmd .sReset := by decide
theorem test_decode_len_31 : decode 0x00001F02#32 = .badLen 31 := by decide
theorem test_decode_rsv_13 : decode 0x00002102#32 = .illegal := by decide
theorem test_decode_len_on_pInit : decode 0x00000101#32 = .illegal := by decide
theorem test_decode_undefined : decode 0x00000025#32 = .illegal := by decide
theorem test_decode_rsv_31 : decode 0x80000011#32 = .illegal := by decide
theorem test_decodeTableWord_short : decodeTableWord 8 0xFF = some .sReset := by decide
theorem test_encode_pAdd_2 : encode (.pAdd 2) = 0x00000202#32 := by decide

/-! ### The Poly1305 unit (95_test_vectors.md V1, V9, V12, V14) -/

theorem test_pInit_effect : (complete (inFlight (.pInit keyV1))).poly.ctx = ctxV1 := by decide +kernel
/-- V9, the split 1, 16: one block, and the seventeenth byte 0x10 stays in the buffer. -/
theorem test_pAdd_splits_block :
    (complete (accept (.pAdd 16 0x100f0e0d0c0b0a090807060504030201#128 { ctxV1 with bufLen := 1 })
        (openCtx { ctxV1 with bufLen := 1 }))).poly.ctx
      = { ctxV1 with h := 0x1d4ef73e6de427ae52adf1bbf578d87a0#130, buf := 0x10, bufLen := 1 } := by decide +kernel
theorem test_pFinish_tag :
    (complete (inFlight (.pFinish
        { ctxV1 with h := 0x2d8adaf23b0337fa7cccfb4ea344b30de#130, buf := 0x7075, bufLen := 2 }))).poly.ptag
      = 0xa927010caf8b2bc2c6365130c11d06a8#128 := by decide +kernel
/-- V13: the reduced h, then the pad, then 128 bits. -/
theorem test_tag_order : polyTag (p1305 - 1) (2 ^ 128 - 1) = BitVec.ofNat 128 (2 ^ 128 - 7) := by decide +kernel
theorem test_pAdd_len_before_state :
    (after (step (facing (cmdWrite 0x00001102)))).map statusWord = some 0x00000032 := by decide +kernel
theorem test_pFinish_in_idle :
    (after (step (facing (cmdWrite 0x00000003)))).map statusWord = some 0x00000022 := by decide +kernel
theorem test_pInit_busy :
    (after (step (facing (cmdWrite 0x00000001)))).map statusWord = some 0x00000001 := by decide +kernel

/-! ### X25519 (95_test_vectors.md V3 to V6, V20, V21) -/

theorem test_clamp_alice :
    clampScalar aliceKey = 0x6a2cb91da5fb77b12a99c0eb872f4cdf4566b25172c1163c7da518730a6d0770#256 := by decide +kernel
theorem test_xBase_alice :
    (complete (inFlight (.xBase aliceKey))).curve.xout
      = 0x6a4e9baa8ea9a4ebf41a38260d3abf0d5af73eb4dc7d8b7454a7308909f02085#256 := by decide +kernel
theorem test_xMul_shared :
    (complete (inFlight (.xMul aliceKey
        0x4f2b886f147efcad4d67785bc843833f3735e4ecc2615bd3b4c17d7b7ddb9ede#256))).curve.xout
      = 0x4217161e3c9bf076339ed147c9217ee0250f3580f43b8e72e12dcea45b9d5d4a#256 := by decide +kernel
/-- V6 with the parameter 1 and 0: bit 255 of u is set. -/
theorem test_x25519_mask :
    x25519 true 0x0dba18799e16a42cd401eae021641bc1f56a7d959126d25a3c67b4d1d4e9664b#256
        0x93a415c749d54cfc3e3cc06f10e7db312cae38059d95b7f4d3116878120f21e5#256
      = 0x5779ac7a64f7f8e652a19f79685a598bf873b8b45ce4ad7a7d90e87694decb95#256 := by decide +kernel
theorem test_x25519_no_mask :
    x25519 false 0x0dba18799e16a42cd401eae021641bc1f56a7d959126d25a3c67b4d1d4e9664b#256
        0x93a415c749d54cfc3e3cc06f10e7db312cae38059d95b7f4d3116878120f21e5#256
      = 0x4a7ea5ad7cb83704d3d0006baf413c5de934251eceac839412b8f6c97335f3d5#256 := by decide +kernel

/-! ### Field commands (95_test_vectors.md V30) -/

theorem test_fAdd_noncanonical :
    (complete (inFlight (.fAdd (BitVec.ofNat 256 (2 ^ 256 - 1)) 0))).curve.fr = 37 := by decide +kernel
theorem test_fAdd_wraps :
    (complete (inFlight (.fAdd (BitVec.ofNat 256 (p25519 - 1)) 1))).curve.fr = 0 := by decide +kernel
theorem test_fSub_borrows :
    (complete (inFlight (.fSub 5 7))).curve.fr = BitVec.ofNat 256 (p25519 - 2) := by decide +kernel
theorem test_fMul_bit_255 :
    (complete (inFlight (.fMul (BitVec.ofNat 256 (2 ^ 255)) 2))).curve.fr = 38 := by decide +kernel
theorem test_fMul_example : (complete (inFlight (.fMul 121665 9))).curve.fr = 0x10b549 := by decide +kernel
theorem test_fSqr_wraps :
    (complete (inFlight (.fSqr (BitVec.ofNat 256 (2 ^ 128))))).curve.fr = 38 := by decide +kernel
theorem test_fInv_nine :
    (complete (inFlight (.fInv 9))).curve.fr
      = 0x471c71c71c71c71c71c71c71c71c71c71c71c71c71c71c71c71c71c71c71c712#256 := by decide +kernel
theorem test_fInv_zero : (complete (inFlight (.fInv 0))).curve.fr = 0 := by decide +kernel

/-! ### Control commands and the bus (95_test_vectors.md V40, V42 to V44) -/

/-- STATUS 0x00000026, as in V40. -/
def withErrors : State :=
  { State.reset with engine := { State.reset.engine with err := .state, errs := true, ovr := true } }

theorem test_withErrors_status : statusWord withErrors = 0x00000026 := by decide +kernel
theorem test_nop_keeps_sticky : (after (exec .nop withErrors)).map statusWord = some 0x00000006 := by decide +kernel
theorem test_clrErr_clears : (after (exec .clrErr withErrors)).map statusWord = some 0x00000000 := by decide +kernel
theorem test_clrErr_with_len :
    (after (step (facing (cmdWrite 0x000001F0)))).map statusWord = some 0x00000012 := by decide +kernel
/-- STATUS 0x00050132 and IE = 1 before, as in V40: all zero after. -/
theorem test_sReset_clears :
    after (exec .sReset
      { openCtx { ctxV1 with bufLen := 5 } with
        engine := { State.reset.engine with err := .len, errs := true, ie := true } }) = some State.reset := by
  decide +kernel
theorem test_sReset_dropped_when_busy :
    (after (exec .sReset (inFlight (.fMul 2 3)))).map statusWord = some 0x00000007 := by decide +kernel
theorem test_read_id :
    (after (step (facing (.bus (.read 0x000 .word))))).map (fun t => t.port.response)
      = some (some (.data 0x13052551)) := by decide +kernel
theorem test_read_byte_faults : after (step (facing (.bus (.read 0x008 .byte)))) = none := by decide +kernel
theorem test_read_reserved_faults : after (step (facing (.bus (.read 0x1FC .word)))) = none := by decide +kernel
theorem test_write_ctrl :
    (after (step (facing (.bus (.write 0x00C .word 0xFFFFFFFF))))).map ctrlWord = some 0x00000001 := by
  decide +kernel
/-- The words of PKEY as 95_test_vectors.md P1 writes them: word 1 of V1's key. -/
theorem test_byte_lanes : wordOf keyV1 1 = 0x336d5557 := by decide +kernel
theorem test_write_lane : setWordOf (0 : BitVec 256) 7 0x1bf54941 = BitVec.ofNat 256 (0x1bf54941 * 2 ^ 224) := by
  decide +kernel
theorem test_pacc_words : wordOf (0x2c88c77849d64ae9147ddeb88e69c83fc#130) 4 = 0x00000002 := by decide +kernel
theorem test_transaction_in_reset :
    after (step { facing (cmdWrite 0) with port := { (facing (cmdWrite 0)).port with inReset := true } }) = none := by
  decide +kernel
theorem test_irq_after_nop :
    (after (exec .nop { State.reset with engine := { State.reset.engine with ie := true } })).map irqLine
      = some true := by decide +kernel

end Sys2Proof.Tests
end

