-- ==== Sys2Proof/Tests/Witness.lean ====
section
/-! SUPPORT. For every statement of Certificates/Slice0/Obligations.lean that has hypotheses, a concrete state and operands
that meet them together; one for each clause, at a boundary value of its range. -/

namespace Sys2Proof.Tests

-- One theorem after another: the kernel evaluations do not wait for each other in threads of their own.
set_option Elab.async false

open Sys2Proof.Machine

/-- A core with an addition in flight, its last cycle next, about to see one event. -/
def busyFacing (e : PortEvent) : State :=
  { facing e with engine := { State.reset.engine with inflight := some { job := .fAdd 1 2, remaining := 1 } } }

/-- A core held in reset, about to see one event. -/
def heldFacing (e : PortEvent) : State := { facing e with port := { (facing e).port with inReset := true } }

/-- STATUS 0x00000026 (95_test_vectors.md V40), about to see one event. -/
def errorsFacing (e : PortEvent) : State := { withErrors with port := (facing e).port }

/-- A core with the given IE and DONE, about to see one event. -/
def interruptFacing (ie done : Bool) (e : PortEvent) : State :=
  { facing e with engine := { State.reset.engine with ie := ie, done := done } }

/-! ### Encoding and the step -/

/-- DecodeFollowsFields, third clause, at the longest LEN. -/
theorem witness_decode_cmd : decode 0x00001002 = .cmd (.pAdd 16) := by decide
/-- StepRunsDecodedCommand: the longest legal P_ADD and the shortest BadLen one. -/
theorem witness_step_runs :
    (decode 0x00001002).instr? = some (.pAdd 16) ∧ (decode 0x00001102).instr? = some (.pAdd 17) := by decide
/-- soleWord, in every command's statement: the word itself, the least LEN and the least RSV beside it. -/
theorem witness_soleWord :
    (0x00000011#32).toNat % 2 ^ 8 = 0x11 ∧ (0x00000111#32).toNat % 2 ^ 8 = 0x11 ∧
      (0x00002011#32).toNat % 2 ^ 8 = 0x11 := by decide
/-- PAddAbsorbsBytes, the encoding clause: LEN 16, LEN 17 and RSV bit 13. -/
theorem witness_pAdd_words :
    (0x00001002#32).toNat % 2 ^ 8 = 2 ∧ (0x00001102#32).toNat % 2 ^ 8 = 2 ∧ (0x00002002#32).toNat % 2 ^ 8 = 2 := by
  decide
/-- CommandChecksInOrder, first clause. -/
theorem witness_checks_busy : isBusy (busyFacing (cmdWrite 0x00000101)) = true := by decide
/-- Second clause: RSV = 1 on a P_ADD of LEN 31, with nothing in flight. -/
theorem witness_checks_illegal :
    isBusy State.reset = false ∧ (0x00003F02#32).toNat / 2 ^ 13 ≠ 0 := by decide
/-- Third clause: LEN 17, not illegal. -/
theorem witness_checks_long :
    isBusy State.reset = false ∧ (0x00001102#32).toNat % 2 ^ 8 = 2 ∧ 16 < (0x00001102#32).toNat / 2 ^ 8 % 2 ^ 5 ∧
      (0x00001102#32).toNat / 2 ^ 13 = 0 := by decide
/-- Fourth clause: LEN 16 outside a context, neither illegal nor long. -/
theorem witness_checks_state :
    isBusy State.reset = false ∧ State.reset.poly.pstate ≠ .active ∧ (0x00001002#32).toNat % 2 ^ 8 = 2 ∧
      ¬16 < (0x00001002#32).toNat / 2 ^ 8 % 2 ^ 5 ∧ (0x00001002#32).toNat / 2 ^ 13 = 0 := by decide
/-- Fifth clause: LEN 16 in an open context. -/
theorem witness_checks_pass :
    isBusy (openCtx ctxV1) = false ∧ (openCtx ctxV1).poly.pstate = .active ∧ (0x00001002#32).toNat % 2 ^ 8 = 2 ∧
      ¬16 < (0x00001002#32).toNat / 2 ^ 8 % 2 ^ 5 ∧ (0x00001002#32).toNat / 2 ^ 13 = 0 := by decide

/-! ### The register window -/

/-- BusErrorExactlyOnMalformed: each condition of 20_memory.md R105 at the edge of its range. -/
theorem witness_malformed :
    malformed 0x008 .half = true ∧ malformed 0x00A .word = true ∧ malformed 0x014 .word = true ∧
      malformed 0x07C .word = true ∧ malformed 0x09C .word = true ∧ malformed 0x160 .word = true := by decide
/-- The other clause: the defined offsets next to the reserved ranges. -/
theorem witness_wellformed_access :
    malformed 0x010 .word = false ∧ malformed 0x070 .word = false ∧ malformed 0x0A0 .word = false ∧
      malformed 0x15C .word = false := by decide
/-- ByteLanesLittleEndian: the last byte of the last word of a 32-byte register. -/
theorem witness_byte_lanes : 7 < 8 ∧ 3 < 4 ∧ 31 < 4 * 8 := by decide
/-- Nothing in flight: the hypothesis of ReadAnswersRegister, OperandWriteSetsOneWord, PInitStartsContext,
XBaseComputesPublicKey, XMulComputesSharedSecret, BaseIsMulOfNine, FAddAdds, FSubSubtracts, FMulMultiplies, FSqrSquares,
FInvInverts, and of the first clauses of NopClearsErrOnly, ClrErrClearsErrors, SResetRestoresReset and of ResetValues. -/
theorem witness_idle : isBusy withErrors = false := by decide
/-- Something in flight: the second clauses of NopClearsErrOnly, ClrErrClearsErrors and SResetRestoresReset. -/
theorem witness_busy : isBusy (inFlight (.fMul 2 3)) = true := by decide
/-- ReadWhileBusy: a command in flight, and an open and an exact register of the window, first and last word. -/
theorem witness_read_while_busy :
    (busyFacing .clock).engine.inflight = some { job := .fAdd 1 2, remaining := 1 } ∧
      selectReg 0x140 .word = some (⟨0x140, .fr, 8, .ro⟩, 0) ∧ selectReg 0x15C .word = some (⟨0x140, .fr, 8, .ro⟩, 7) ∧
      selectReg 0x13C .word = some (⟨0x120, .fb, 8, .rw⟩, 7) := by decide
/-- ReadWhileBusy, the Poly1305 rows: the ends of PTAG, PACC and PR. -/
theorem witness_read_poly_busy :
    (inFlight (.pFinish ctxV1)).engine.inflight = some { job := .pFinish ctxV1, remaining := Config.latency 0x03 } ∧
      selectReg 0x05C .word = some (⟨0x050, .ptag, 4, .ro⟩, 3) ∧ selectReg 0x070 .word = some (⟨0x060, .pacc, 5, .ro⟩, 4) ∧
      selectReg 0x08C .word = some (⟨0x080, .pr, 4, .ro⟩, 3) := ⟨rfl, by decide, by decide, by decide⟩
/-- BusyWriteDropped: CMD and the ends of each range. -/
theorem witness_dropped :
    isBusy (busyFacing .clock) = true ∧ (0x004#9).toNat % 4 = 0 ∧ (0x020#9).toNat % 4 = 0 ∧ (0x04C#9).toNat < 0x050 ∧
      (0x0DC#9).toNat < 0x0E0 ∧ 0x100 ≤ (0x100#9).toNat ∧ (0x13C#9).toNat < 0x140 := by decide
/-- ReadOnlyWriteIgnored: the ends of each range. -/
theorem witness_read_only :
    (0x000#9).toNat % 4 = 0 ∧ (0x008#9).toNat % 4 = 0 ∧ (0x050#9).toNat % 4 = 0 ∧ (0x070#9).toNat < 0x074 ∧
      (0x08C#9).toNat < 0x090 ∧ (0x0FC#9).toNat < 0x100 ∧ (0x15C#9).toNat < 0x160 := by decide
/-- WindowDecodesAddresses, last clause: the first address above the window. -/
theorem witness_outside_window : Config.base + 0x1FF < Config.base + 0x200 := by omega
/-- WindowDecodesAddresses, inside: the window's last word. -/
theorem witness_inside_window : windowOffset (Config.base + 0x1FC) = some 0x1FC := by
  simp [windowOffset]

/-! ### STATUS, errors and the interrupt -/

/-- ErrsIsSticky and OvrMarksDroppedWrites: CLRERR clears both sticky bits. -/
theorem witness_sticky_cleared :
    ∃ s t, step s = .next t ∧ s.engine.errs = true ∧ t.engine.errs = false ∧ s.engine.ovr = true ∧
      t.engine.ovr = false := ⟨errorsFacing (cmdWrite 0xF0), _, rfl, by decide +kernel⟩
/-- ErrsIsSticky, OvrMarksDroppedWrites and DoneRisesOnlyOnCompletion: a dropped write. -/
theorem witness_drop_marked :
    ∃ s t, step s = .next t ∧ s.port.inReset = false ∧ dropsNextWrite s = true ∧ s.engine.ovr = false ∧
      t.engine.ovr = true := ⟨busyFacing (cmdWrite 0xFF), _, rfl, by decide +kernel⟩
/-- DoneRisesOnlyOnCompletion and IrqFollowsEnableAndDone: a completion with IE = 1. -/
theorem witness_done_rises :
    ∃ s t f, step s = .next t ∧ completesNext s f ∧ s.engine.done = false ∧ t.engine.done = true ∧
      irqLine s = false ∧ irqLine t = true :=
  ⟨{ busyFacing .clock with engine := { (busyFacing .clock).engine with ie := true } }, _, _, rfl,
    ⟨rfl, rfl, .inr ⟨rfl, by decide⟩⟩, by decide +kernel⟩
/-- DoneRisesOnlyOnCompletion: a word other than SRESET that completes at issue. -/
theorem witness_done_at_issue :
    ∃ s t w, step s = .next t ∧ issuesNext w s ∧ w ≠ encode .sReset ∧ isBusy t = false :=
  ⟨facing (cmdWrite 0x00), _, 0x00, rfl, ⟨rfl, rfl, rfl⟩, by decide +kernel⟩
/-- DoneRisesOnlyOnCompletion: SRESET; the reset clause of PStateTransitions. -/
theorem witness_issues_sReset :
    ∃ s t, step s = .next t ∧ issuesNext (encode .sReset) s ∧ resetsNext s :=
  ⟨errorsFacing (cmdWrite 0xFF), _, rfl, ⟨rfl, rfl, rfl⟩, .inl ⟨rfl, rfl, rfl⟩⟩
/-- IrqFollowsEnableAndDone, the rise: a word other than SRESET that completes at issue, with IE = 1. -/
theorem witness_irq_rises_at_issue :
    ∃ s t w, step s = .next t ∧ issuesNext w s ∧ w ≠ encode .sReset ∧ isBusy t = false ∧ s.engine.ie = true ∧
      irqLine s = false ∧ irqLine t = true :=
  ⟨interruptFacing true false (cmdWrite 0x00), _, 0x00, rfl, ⟨rfl, rfl, rfl⟩, by decide +kernel⟩
/-- IrqFollowsEnableAndDone, the rise: CTRL sets IE with DONE = 1. -/
theorem witness_irq_rises_at_ctrl :
    ∃ s t, ∃ w : Word, step s = .next t ∧ nextEvent s = .bus (.write 0x00C .word w) ∧ w.getLsbD 0 = true ∧
      s.engine.done = true ∧ irqLine s = false ∧ irqLine t = true :=
  ⟨interruptFacing false true (.bus (.write 0x00C .word 1)), _, 1, rfl, rfl, by decide +kernel⟩
/-- IrqFollowsEnableAndDone, the fall: CTRL clears IE; the reserved bits are written with 1. -/
theorem witness_irq_falls_at_ctrl :
    ∃ s t, ∃ w : Word, step s = .next t ∧ nextEvent s = .bus (.write 0x00C .word w) ∧ w.getLsbD 0 = false ∧
      irqLine s = true ∧ irqLine t = false :=
  ⟨interruptFacing true true (.bus (.write 0x00C .word 0xFFFFFFFE)), _, 0xFFFFFFFE, rfl, rfl, by decide +kernel⟩
/-- IrqFollowsEnableAndDone, the fall: INTSTAT written with 1. -/
theorem witness_irq_falls_at_intstat :
    ∃ s t, ∃ w : Word, step s = .next t ∧ nextEvent s = .bus (.write 0x010 .word w) ∧ w.getLsbD 0 = true ∧
      irqLine s = true ∧ irqLine t = false :=
  ⟨interruptFacing true true (.bus (.write 0x010 .word 1)), _, 1, rfl, rfl, by decide +kernel⟩
/-- IrqFollowsEnableAndDone, the fall: SRESET. -/
theorem witness_irq_falls_at_sReset :
    ∃ s t, step s = .next t ∧ resetsNext s ∧ irqLine s = true ∧ irqLine t = false :=
  ⟨interruptFacing true true (cmdWrite 0xFF), _, rfl, .inl ⟨rfl, rfl, rfl⟩, by decide +kernel⟩
/-- IrqFollowsEnableAndDone, the fall: hardware reset. -/
theorem witness_irq_falls_at_reset :
    ∃ s t, step s = .next t ∧ resetsNext s ∧ irqLine s = true ∧ irqLine t = false :=
  ⟨interruptFacing true true .resetAssert, _, rfl, .inr (.inl rfl), by decide +kernel⟩

/-! ### Poly1305 -/

/-- PAddAbsorbsBytes and PFinishMakesTag, the accepting clauses: a context open with 15 bytes waiting, LEN 16; so is the
P_FINISH clause of CommandChecksInOrder. -/
theorem witness_context_open :
    isBusy (openCtx { ctxV1 with bufLen := 15 }) = false ∧ (openCtx { ctxV1 with bufLen := 15 }).poly.pstate = .active ∧
      (16#5).toNat ≤ 16 := by decide
/-- PAddAbsorbsBytes, PFinishMakesTag and WrongStateRejected, the rejecting clauses: no context, LEN 16 and LEN 17. -/
theorem witness_no_context :
    isBusy withErrors = false ∧ withErrors.poly.pstate ≠ .active ∧ (16#5).toNat ≤ 16 ∧ 16 < (17#5).toNat := by decide
/-- A sound state with a context open and nothing in flight: PAddZeroIsNoOp. -/
theorem witness_sound_open :
    Sound (openCtx ctxV1) ∧ isBusy (openCtx ctxV1) = false ∧ (openCtx ctxV1).poly.pstate = .active :=
  ⟨⟨by decide +kernel, by decide +kernel, (by intro f h; cases h), by decide, (by intro h; cases h)⟩, rfl, rfl⟩
/-- ChunkingDoesNotChangeTag: an empty and a full chunk; OneTimeAuthComputesMac has the same state. -/
theorem witness_chunks :
    isBusy withErrors = false ∧ withErrors.port.inReset = false ∧ withErrors.port.pending = [] ∧
      ∀ c ∈ [[], List.replicate 16 (0 : Byte)], c.length ≤ 16 := by decide

/-! ### Field and curve functions -/

/-- CswapSwaps: the largest 256-bit value. -/
theorem witness_cswap : 2 ^ 256 - 1 < 2 ^ 256 := by decide
/-- ScalarClampRange: the second and the last but one byte. -/
theorem witness_scalar_bytes : 1 ≤ 1 ∧ 1 ≤ 30 ∧ 30 ≤ 30 := by decide
/-- LadderStaysInField: the largest field element everywhere. -/
theorem witness_ladder : p25519 - 1 < p25519 := by decide
/-- ZeroPointGivesZero: u = 0, and u = p25519, with and without the mask. -/
theorem witness_zero_point :
    decodeU true 0 = 0 ∧ decodeU false 0 = 0 ∧ decodeU true (BitVec.ofNat 256 p25519) = 0 := by decide
/-- InverseOfNonzero: the smallest and the largest nonzero element. -/
theorem witness_nonzero : 0 < 1 ∧ 1 < p25519 ∧ 0 < p25519 - 1 ∧ p25519 - 1 < p25519 := by decide

/-! ### Time, completion and reset -/

/-- ElapsedTimeCompletes: nothing waits at the port. -/
theorem witness_elapsed :
    (inFlight (.fInv 9)).engine.inflight = some { job := .fInv 9, remaining := Config.latency 0x24 } ∧
      (inFlight (.fInv 9)).port.inReset = false ∧ nextEvent (inFlight (.fInv 9)) = .elapse := ⟨rfl, rfl, rfl⟩
/-- ClockCyclesComplete: two cycles left, so one on the way, and one left, so none. -/
theorem witness_cycles :
    ∃ (s t : State) (f g : InFlight), s.engine.inflight = some f ∧ f.remaining = 2 ∧ s.port.inReset = false ∧
      s.port.pending = List.replicate f.remaining .clock ++ [] ∧ 1 ≤ 1 ∧ 1 < f.remaining ∧
      t.engine.inflight = some g ∧ g.remaining = 1 ∧ t.port.inReset = false ∧
      t.port.pending = List.replicate g.remaining .clock ++ [.elapse] :=
  ⟨{ enqueue [.clock, .clock] State.reset with
      engine := { State.reset.engine with inflight := some { job := .fAdd 1 2, remaining := 2 } } },
    { enqueue [.clock, .elapse] State.reset with
      engine := { State.reset.engine with inflight := some { job := .fAdd 1 2, remaining := 1 } } },
    { job := .fAdd 1 2, remaining := 2 }, { job := .fAdd 1 2, remaining := 1 }, by decide⟩
/-- CommandIsNeverCancelled: SRESET arrives while a command is in flight. -/
theorem witness_not_cancelled :
    ∃ (s t : State) (f : InFlight), s.engine.inflight = some f ∧ step s = .next t :=
  ⟨busyFacing (cmdWrite 0xFF), _, _, rfl, rfl⟩
/-- HardwareResetHoldsAndReleases and ResetValues: rst_n goes low. -/
theorem witness_reset_asserted : nextEvent (busyFacing .resetAssert) = .resetAssert := by decide
/-- HardwareResetHoldsAndReleases: rst_n is low, for each event that can come. -/
theorem witness_held :
    (heldFacing (cmdWrite 0)).port.inReset = true ∧
      nextEvent (heldFacing (.bus (.read 0 .word))) = .bus (.read 0 .word) ∧ nextEvent (heldFacing .clock) = .clock ∧
      nextEvent (heldFacing .elapse) = .elapse ∧ nextEvent (heldFacing .resetRelease) = .resetRelease := by decide

/-! ### Whole-machine rules -/

/-- StepKeepsSound, and PStateTransitions with nothing to change: a step from a sound state. -/
theorem witness_sound_step : Sound (openCtx ctxV1) ∧ ∃ t, step (openCtx ctxV1) = .next t :=
  ⟨witness_sound_open.1, _, rfl⟩
/-- ErrsIsSticky, last clause: an undefined opcode reaches a sound core. -/
theorem witness_sound_rejected :
    ∃ s t, Sound s ∧ step s = .next t ∧ t.engine.err ≠ .ok :=
  ⟨facing (cmdWrite 0x04), _,
    ⟨by decide, by decide, (by intro f h; cases h), by decide, (by intro h; cases h)⟩, rfl, by decide +kernel⟩
/-- A sound core with P_INIT in flight completes it: PStateTransitions, ContextKeysLatched. -/
theorem witness_pInit_completes :
    ∃ s t f, Sound s ∧ step s = .next t ∧ completesNext s f ∧ f.job.instr = .pInit ∧
      t.poly.pstate ≠ s.poly.pstate ∧ t.poly.ctx.r ≠ s.poly.ctx.r :=
  let pkeyed : State := { State.reset with poly := { State.reset.poly with pkey := keyV1 } }
  ⟨accept (.pInit keyV1) pkeyed, _, _,
    ⟨by decide, by decide, (by intro f h; cases h; exact ⟨rfl, Nat.le_add_left 1 _, Nat.le_refl _⟩), by decide,
      (by intro h; cases h)⟩,
    rfl, ⟨rfl, rfl, .inl rfl⟩, rfl, by decide +kernel, by decide +kernel⟩
/-- A sound core with P_FINISH in flight completes it: PStateTransitions, ContextKeysLatched, ResultsOnlyOnCompletion. -/
theorem witness_pFinish_completes :
    ∃ s t f, Sound s ∧ step s = .next t ∧ completesNext s f ∧ f.job.instr = .pFinish ∧ ¬resetsNext s ∧
      t.poly.ptag ≠ s.poly.ptag :=
  ⟨accept (.pFinish ctxV1) (openCtx ctxV1), _, _,
    ⟨by decide +kernel, by decide +kernel,
      (by intro f h; cases h; exact ⟨⟨rfl, rfl⟩, Nat.le_add_left 1 _, Nat.le_refl _⟩), by decide, (by intro h; cases h)⟩,
    rfl, ⟨rfl, rfl, .inl rfl⟩, rfl,
    by rintro (⟨-, h, -⟩ | h | h) <;> (cases h), by decide +kernel⟩
/-- OperandsOnlyHostWritten: the last word of FB is written. -/
theorem witness_operand_written :
    ∃ s t, step s = .next t ∧ ¬resetsNext s ∧ t.curve.fb ≠ s.curve.fb :=
  ⟨facing (.bus (.write 0x13C .word 1)), _, rfl, by rintro (⟨-, -, h⟩ | h | h) <;> (cases h), by decide +kernel⟩
/-- ResultsOnlyOnCompletion: FR by a field command. -/
theorem witness_result_written :
    ∃ s t, step s = .next t ∧ ¬resetsNext s ∧ t.curve.fr ≠ s.curve.fr :=
  ⟨busyFacing .clock, _, rfl, by rintro (⟨-, h, -⟩ | h | h) <;> (cases h), by decide +kernel⟩
/-- CurveValuesStayInCurveUnit: two cores with different field operands in flight. -/
theorem witness_same_but_curve :
    ∃ s s' t, s ≠ s' ∧ sameButCurve s s' ∧ step s = .next t :=
  ⟨inFlight (.fMul 2 3), inFlight (.fMul 4 5), _, by decide, ⟨rfl, rfl, rfl, rfl⟩, rfl⟩
/-- PolyValuesStayInPolyUnit: two cores with different messages in flight. -/
theorem witness_same_but_poly :
    ∃ s s' t, s ≠ s' ∧ sameButPoly s s' ∧ step s = .next t :=
  ⟨accept (.pAdd 16 1 ctxV1) (openCtx ctxV1), accept (.pAdd 16 2 ctxV1) (openCtx ctxV1), _, by decide,
    ⟨rfl, rfl, rfl, rfl, rfl⟩, rfl⟩

end Sys2Proof.Tests
end

section
/-! PROOFS (10_state.md). The invariant `Sound`: reset establishes it and every step keeps it. -/

namespace Sys2Proof.Machine

/-! ### Numbers in range (10_state.md R55, R58) -/

theorem p1305_pos : 0 < p1305 := by decide

theorem p1305_lt : p1305 < 2 ^ 130 := by decide

theorem p25519_pos : 0 < p25519 := by decide

theorem p25519_lt : p25519 < 2 ^ 256 := by decide

theorem polyBlock_lt (h r c : Nat) : polyBlock h r c < p1305 := Nat.mod_lt _ p1305_pos

theorem feAdd_lt (a b : Nat) : feAdd a b < p25519 := Nat.mod_lt _ p25519_pos

theorem feMul_lt (a b : Nat) : feMul a b < p25519 := Nat.mod_lt _ p25519_pos

theorem feSqr_lt (a : Nat) : feSqr a < p25519 := Nat.mod_lt _ p25519_pos

theorem feSub_lt (a b : Nat) : feSub a b < p25519 := by
  have hp : (0 : Int) < p25519 := by exact_mod_cast p25519_pos
  have hlt : ((a : Int) - b) % p25519 < p25519 := Int.emod_lt_of_pos _ hp
  unfold feSub
  omega

theorem fePow_lt (bits a e : Nat) : fePow bits a e < p25519 := by
  induction bits generalizing a e with
  | zero => exact (by decide : 1 < p25519)
  | succ bits ih =>
    rw [fePow]
    split
    · exact feMul_lt _ _
    · exact ih _ _

theorem feInv_lt (a : Nat) : feInv a < p25519 := fePow_lt _ _ _

theorem fieldBytes_toNat {x : Nat} (h : x < p25519) : (fieldBytes x).toNat = x := by
  rw [fieldBytes, BitVec.toNat_ofNat, Nat.mod_eq_of_lt (h.trans p25519_lt)]

/-- The shared result of X_BASE and X_MUL is a canonical field element (41_x25519.md R253). -/
theorem x25519_canonical (mask : Bool) (a u : BitVec 256) : (x25519 mask a u).toNat < p25519 := by
  rw [x25519, fieldBytes_toNat (feMul_lt _ _)]
  exact feMul_lt _ _

/-! ### Effects keep the units sound -/

/-- A context without a message byte yet is sound when its multiplier is clamped. -/
theorem CtxSound.empty {r : BitVec 128} (hr : r &&& ~~~clampMask = 0) (pad : BitVec 128) :
    CtxSound { r := r, s := pad, h := 0, buf := 0, bufLen := 0 } :=
  ⟨hr, p1305_pos, fun i _ _ => by simp [byteAt]⟩

theorem CtxSound.cleared : CtxSound PolyCtx.cleared := .empty (by decide) 0

theorem clampR_clamped (key : BitVec 256) : clampR key &&& ~~~clampMask = 0 := by
  rw [clampR, BitVec.and_assoc, BitVec.and_not_self]
  exact BitVec.and_zero

/-- The bytes of a register made of fewer bytes are zero from there on. -/
theorem byteAt_ofBytes_of_ge (w : Nat) {bs : List Byte} {i : Nat} (h : bs.length ≤ i) :
    byteAt (ofBytes w bs) i = 0 := by
  apply BitVec.eq_of_toNat_eq
  have hlt : (ofBytes w bs).toNat < 2 ^ (8 * i) :=
    calc (ofBytes w bs).toNat ≤ leNat bs := Nat.mod_le _ _
      _ < 2 ^ (8 * bs.length) := leNat_lt bs
      _ ≤ 2 ^ (8 * i) := Nat.pow_le_pow_right (by norm_num) (by omega)
  rw [byteAt_toNat, Nat.div_eq_of_lt hlt]
  rfl

theorem length_addBytes (ctx : PolyCtx) (pdata : BitVec 128) (len : BitVec 5) :
    (addBytes ctx pdata len).length = ctx.bufLen.toNat + len.toNat := by
  simp [addBytes]

theorem length_addRest_le {bytes : List Byte} (h : bytes.length ≤ 31) : (addRest bytes).length ≤ 15 := by
  unfold addRest
  split
  · rw [List.length_drop]; omega
  · omega

theorem addH_lt {ctx : PolyCtx} (h : ctx.h.toNat < p1305) (bytes : List Byte) : (addH ctx bytes).toNat < p1305 := by
  unfold addH
  split
  · have hb := polyBlock_lt ctx.h.toNat ctx.r.toNat (fullBlock (bytes.take 16))
    rwa [BitVec.toNat_ofNat, Nat.mod_eq_of_lt (hb.trans p1305_lt)]
  · exact h

/-- P_ADD of at most 16 bytes keeps the context sound (10_state.md R56, R58, R59). -/
theorem CtxSound.pAdd {ctx : PolyCtx} (h : CtxSound ctx) {len : BitVec 5} (hl : len.toNat ≤ 16) (pdata : BitVec 128) :
    CtxSound { ctx with
      h := addH ctx (addBytes ctx pdata len)
      buf := ofBytes 128 (addRest (addBytes ctx pdata len))
      bufLen := BitVec.ofNat 4 (addRest (addBytes ctx pdata len)).length } := by
  obtain ⟨hr, hh, -⟩ := h
  have hbytes : (addBytes ctx pdata len).length ≤ 31 := by
    rw [length_addBytes]
    have := ctx.bufLen.isLt
    omega
  have hrest := length_addRest_le hbytes
  refine ⟨hr, addH_lt hh _, fun i _ hi => byteAt_ofBytes_of_ge 128 ?_⟩
  rwa [BitVec.toNat_ofNat, Nat.mod_eq_of_lt (by omega)] at hi

/-- A completion on a current snapshot keeps the Poly1305 unit sound. -/
theorem PolySound.effectOf {j : Job} {s : State} (h : PolySound s.poly) (hj : SnapshotSound j s.poly s.curve) :
    PolySound (effectOf j s).poly := by
  cases j
  case pInit key => exact ⟨.empty (clampR_clamped key) _, fun ha => absurd rfl ha⟩
  case pAdd len pdata ctx =>
    obtain ⟨hl, -, rfl, ha⟩ := hj
    exact ⟨h.1.pAdd hl pdata, fun hn => absurd ha hn⟩
  case pFinish ctx => exact ⟨CtxSound.cleared, fun _ => rfl⟩
  all_goals rwa [effectOf_poly_of_onCurve rfl]

/-- A field command's reduced result is canonical in FR (42_field.md R300). -/
theorem CurveSound.writeFR {s : State} (h : CurveSound s.curve) {x : Nat} (hx : x < p25519) :
    CurveSound (writeFR x s).curve :=
  ⟨h.1, by rwa [writeFR_curve, fieldBytes_toNat hx]⟩

/-- A canonical value in XOUT (41_x25519.md R253). -/
theorem CurveSound.writeXOut {s : State} (h : CurveSound s.curve) {x : BitVec 256} (hx : x.toNat < p25519) :
    CurveSound (writeXOut x s).curve :=
  ⟨hx, h.2⟩

/-- A completion keeps the results of the curve unit canonical, whatever its snapshot. -/
theorem CurveSound.effectOf {s : State} (h : CurveSound s.curve) (j : Job) : CurveSound (effectOf j s).curve := by
  cases j
  case pInit => exact h
  case pAdd => exact h
  case pFinish => exact h
  case xBase k => exact h.writeXOut (x25519_canonical _ k (fieldBytes 9))
  case xMul k u => exact h.writeXOut (x25519_canonical _ k u)
  case fAdd => exact h.writeFR (feAdd_lt (fieldOperand _) (fieldOperand _))
  case fSub => exact h.writeFR (feSub_lt (fieldOperand _) (fieldOperand _))
  case fMul => exact h.writeFR (feMul_lt (fieldOperand _) (fieldOperand _))
  case fSqr => exact h.writeFR (feSqr_lt (fieldOperand _))
  case fInv => exact h.writeFR (feInv_lt (fieldOperand _))

/-! ### Reset -/

theorem atReset_resetCore (s : State) : AtReset (resetCore s) := ⟨rfl, rfl, rfl⟩

theorem resetCore_eq_self_iff {s : State} : resetCore s = s ↔ AtReset s := by
  constructor
  · intro h
    rw [← h]
    exact atReset_resetCore s
  · rintro ⟨hp, hc, he⟩
    exact State.eq_of_parts hp.symm hc.symm he.symm rfl

theorem FlightSound.of_idle {s : State} (h : s.engine.inflight = none) : FlightSound s := by
  intro f hf
  rw [h] at hf
  cases hf

theorem Sound.of_atReset {s : State} (h : AtReset s) : Sound s := by
  obtain ⟨hp, hc, he⟩ := h
  constructor
  case poly => rw [hp]; exact ⟨CtxSound.cleared, fun _ => rfl⟩
  case curve => rw [hc]; exact ⟨p25519_pos, p25519_pos⟩
  case flight => exact .of_idle (by rw [he]; rfl)
  case errors => rw [he]; exact ⟨fun h => absurd rfl h, fun h => by cases h⟩
  case held => exact fun _ => resetCore_eq_self_iff.mpr ⟨hp, hc, he⟩

/-! ### Each operation keeps `Sound` while `rst_n` is high -/

section Running

variable {s : State}

/-- `Sound` of a running core is about its two units, the command in flight and the error bits only. -/
theorem Sound.of_running (hr : s.port.inReset = false) (hp : PolySound s.poly) (hc : CurveSound s.curve)
    (hf : FlightSound s) (he : ErrorsSound s.engine) : Sound s :=
  ⟨hp, hc, hf, he, fun h => by rw [hr] at h; cases h⟩

theorem Sound.port_irrelevant (h : Sound s) {p : Port} (hr : p.inReset = false) : Sound { s with port := p } :=
  .of_running hr h.poly h.curve h.flight h.errors

theorem Sound.answered (h : Sound s) (hr : s.port.inReset = false) : Sound (answered s) := h.port_irrelevant hr

theorem Sound.takeEvent (h : Sound s) (hr : s.port.inReset = false) : Sound (takeEvent s) := h.port_irrelevant hr

theorem Sound.writeCtrl (h : Sound s) (hr : s.port.inReset = false) (w : Word) : Sound (writeCtrl w s) :=
  .of_running hr h.poly h.curve h.flight h.errors

theorem Sound.writeIntstat (h : Sound s) (hr : s.port.inReset = false) (w : Word) : Sound (writeIntstat w s) := by
  unfold Machine.writeIntstat
  split
  · exact .of_running hr h.poly h.curve h.flight h.errors
  · exact h

theorem Sound.dropWrite (h : Sound s) (hr : s.port.inReset = false) : Sound (dropWrite s) :=
  .of_running hr h.poly h.curve h.flight ⟨fun _ => rfl, fun _ => rfl⟩

theorem Sound.completeRejected (h : Sound s) (hr : s.port.inReset = false) (code : ErrCode) :
    Sound (completeRejected code s) :=
  .of_running hr h.poly h.curve h.flight ⟨fun _ => rfl, fun _ => rfl⟩

theorem Sound.performNop (h : Sound s) (hr : s.port.inReset = false) : Sound (performNop s) :=
  .of_running hr h.poly h.curve h.flight ⟨fun hn => absurd rfl hn, h.errors.2⟩

theorem Sound.performClrErr (h : Sound s) (hr : s.port.inReset = false) : Sound (performClrErr s) :=
  .of_running hr h.poly h.curve h.flight ⟨fun hn => absurd rfl hn, fun ho => by cases ho⟩

theorem Sound.accept (h : Sound s) (hr : s.port.inReset = false) {j : Job} (hj : SnapshotSound j s.poly s.curve) :
    Sound (accept j s) := by
  refine .of_running hr h.poly h.curve ?_ h.errors
  intro f hf
  obtain rfl : { job := j, remaining := j.latency } = f := Option.some.inj hf
  exact ⟨hj, Nat.le_add_left 1 _, le_refl _⟩

/-- Whatever a command does at issue keeps `Sound`. -/
theorem Sound.issued {i : Instr} {t : State} (h : Sound s) (hr : s.port.inReset = false) (ht : Issued i s t) :
    Sound t := by
  cases ht with
  | rejected code => exact h.completeRejected hr code
  | nop => exact h.performNop hr
  | clrErr => exact h.performClrErr hr
  | sReset => exact .of_atReset (atReset_resetCore s)
  | accepted j _ hj => exact h.accept hr hj

/-- An earlier cycle of the command in flight keeps `Sound` (10_state.md R60). -/
theorem Sound.countDown (h : Sound s) (hr : s.port.inReset = false) {f : InFlight} (hf : s.engine.inflight = some f)
    (hm : 1 < f.remaining) :
    Sound { s with engine := { s.engine with inflight := some { f with remaining := f.remaining - 1 } } } := by
  refine .of_running hr h.poly h.curve ?_ h.errors
  intro g hg
  obtain rfl : { f with remaining := f.remaining - 1 } = g := Option.some.inj hg
  obtain ⟨hj, -, hmax⟩ := h.flight f hf
  exact ⟨hj, Nat.le_sub_of_add_le hm, (Nat.sub_le _ _).trans hmax⟩

theorem Sound.complete (h : Sound s) (hr : s.port.inReset = false) : Sound (complete s) := by
  cases hf : s.engine.inflight with
  | none => rwa [complete_of_none hf]
  | some f =>
    obtain ⟨hj, -⟩ := h.flight f hf
    rw [complete_of_some hf]
    refine .of_running (by simpa using hr) (h.poly.effectOf hj) (h.curve.effectOf f.job) (.of_idle rfl) ?_
    exact ⟨fun hn => absurd rfl hn, by simpa using h.errors.2⟩

/-- An operand write while nothing is in flight keeps `Sound`: no snapshot can go stale (20_memory.md R115). -/
theorem Sound.operandWrite (h : Sound s) (hr : s.port.inReset = false) (hb : isBusy s = false) {p : PolyUnit}
    {c : CurveUnit} (hp : PolySound p) (hc : CurveSound c) : Sound { s with poly := p, curve := c } :=
  .of_running hr hp hc (.of_idle (isBusy_eq_false_iff.mp hb)) h.errors

end Running

theorem Sound.step {s t : State} (h : Sound s) (hs : step s = .next t) : Sound t := by
  cases step_cases hs with
  | held => exact .of_atReset (atReset_resetCore _)
  | released => exact .of_atReset (atReset_resetCore _)
  | asserted => exact .of_atReset (atReset_resetCore _)
  | readOpen hr => exact h.port_irrelevant hr
  | readExact hr => exact h.port_irrelevant hr
  | ignored hr => exact h.answered hr
  | ctrl hr w => exact (h.answered hr).writeCtrl hr w
  | intstat hr w => exact (h.answered hr).writeIntstat hr w
  | dropped hr => exact (h.answered hr).dropWrite hr
  | wrotePKey hr hb => exact (h.answered hr).operandWrite hr hb h.poly h.curve
  | wrotePData hr hb => exact (h.answered hr).operandWrite hr hb h.poly h.curve
  | wroteXScalar hr hb => exact (h.answered hr).operandWrite hr hb h.poly h.curve
  | wroteXU hr hb => exact (h.answered hr).operandWrite hr hb h.poly h.curve
  | wroteFA hr hb => exact (h.answered hr).operandWrite hr hb h.poly h.curve
  | wroteFB hr hb => exact (h.answered hr).operandWrite hr hb h.poly h.curve
  | issued w i _ hi _ ht => exact (h.answered hi.1).issued hi.1 ht
  | illegal w hi => exact (h.answered hi.1).completeRejected hi.1 .illegal
  | ticked hr _ f hf hm => exact (h.takeEvent hr).countDown hr hf hm
  | completed f hc => exact (h.takeEvent hc.1).complete hc.1
  | idled hr => exact h.takeEvent hr

/-- Settles O53, case by case over what one step can do. -/
theorem stepKeepsSound : Obligations.StepKeepsSound := fun _ _ => Sound.step

/-- Settles O54: nothing is in flight at reset and every register is zero. -/
theorem resetIsSound : Obligations.ResetIsSound := Sound.of_atReset ⟨rfl, rfl, rfl⟩

end Sys2Proof.Machine
end

section
/-! PROOFS (10_state.md). Transactions on the register window: which register an offset selects, what a write to each
class of register does, and the words read back; STATUS, CTRL, INTSTAT and the reset values. -/

namespace Sys2Proof.Machine

/-! ### The register an offset selects (10_state.md R31) -/

/-- A word access that 20_memory.md R105 allows selects a row of the map. -/
theorem exists_selectReg {off : BitVec 9} (h4 : off.toNat % 4 = 0) (hr : reservedOffset off = false) :
    ∃ row k, selectReg off .word = some (row, k) := by
  have hm : malformed off .word = false := by simp [malformed, h4, hr]
  have hs : selectReg off .word ≠ none := by rw [Ne, selectReg_eq_none_iff, hm]; decide
  obtain ⟨⟨row, k⟩, h⟩ := Option.ne_none_iff_exists'.mp hs
  exact ⟨row, k, h⟩

/-- CMD and the operand registers by their offsets (10_state.md R61). -/
theorem droppedWhenBusy_iff {off : BitVec 9} {row : MapRow} {k : Nat} (h : selectReg off .word = some (row, k)) :
    droppedWhenBusy row.reg = true ↔
      off.toNat = 0x004 ∨ (0x020 ≤ off.toNat ∧ off.toNat < 0x050) ∨ (0x0A0 ≤ off.toNat ∧ off.toNat < 0x0E0) ∨
        (0x100 ≤ off.toNat ∧ off.toNat < 0x140) := by
  obtain ⟨-, hm, hk, hoff⟩ := selectReg_spec h
  unfold registerMap at hm
  fin_cases hm <;> simp_all [droppedWhenBusy] <;> omega

/-- The read-only registers by their offsets (10_state.md R32). -/
theorem readOnly_iff {off : BitVec 9} {row : MapRow} {k : Nat} (h : selectReg off .word = some (row, k)) :
    row.access = .ro ↔
      off.toNat = 0x000 ∨ off.toNat = 0x008 ∨ (0x050 ≤ off.toNat ∧ off.toNat < 0x074) ∨
        (0x080 ≤ off.toNat ∧ off.toNat < 0x090) ∨ (0x0E0 ≤ off.toNat ∧ off.toNat < 0x100) ∨
        (0x140 ≤ off.toNat ∧ off.toNat < 0x160) := by
  obtain ⟨-, hm, hk, hoff⟩ := selectReg_spec h
  unfold registerMap at hm
  fin_cases hm <;> simp_all <;> omega

/-! ### What a write does -/

section Writes

variable {s : State}

/-- A command while another is in flight is dropped, whichever it is. -/
theorem exec_of_busy (hb : isBusy s = true) (i : Instr) : exec i s = .next (dropWrite s) := by
  obtain ⟨t, ht, ⟨-, rfl⟩ | ⟨hi, -⟩⟩ := exec_cases i s
  · exact ht
  · rw [hb] at hi; cases hi

theorem issueWord_of_busy (hb : isBusy s = true) (w : Word) : issueWord w s = .next (dropWrite s) := by
  unfold issueWord
  split
  · exact exec_of_busy hb _
  · exact exec_of_busy hb _
  · rw [unlessBusy_of_busy hb]

/-- The busy core drops a write to CMD or an operand register (10_state.md R61). -/
theorem writeReg_of_busy (hb : isBusy s = true) {r : Reg} (hd : droppedWhenBusy r = true) (k : Nat) (w : Word) :
    writeReg r k w s = .next (dropWrite s) := by
  cases r
  case cmd => exact issueWord_of_busy hb w
  case pkey | pdata | xscalar | xu | fa | fb => rw [writeReg, unlessBusy_of_busy hb]
  all_goals cases hd

/-- A read-only register ignores a write (10_state.md R32). -/
theorem writeReg_of_readOnly {row : MapRow} (hm : row ∈ registerMap) (ha : row.access = .ro) (k : Nat) (w : Word) :
    writeReg row.reg k w s = .next s := by
  rw [row_of_reg hm] at ha
  generalize row.reg = r at ha ⊢
  cases r
  case id | status | ptag | pacc | pr | xout | fr => rfl
  all_goals cases ha

/-- The step of a write to a defined offset. -/
theorem step_of_write {off : BitVec 9} {w : Word} {row : MapRow} {k : Nat} (hr : s.port.inReset = false)
    (he : nextEvent s = .bus (.write off .word w)) (hs : selectReg off .word = some (row, k)) :
    step s = writeReg row.reg k w (answered s) := by
  simp [step, portEvent, runningEvent, he, hr, busWrite, hs, answered]

/-- The step of a read at a defined offset that is no open draw. -/
theorem step_of_read {off : BitVec 9} {row : MapRow} {k : Nat} (hr : s.port.inReset = false)
    (he : nextEvent s = .bus (.read off .word)) (hs : selectReg off .word = some (row, k))
    (ho : isOpenRead row.reg s = false) :
    step s = .next (respond (.data (readReg row.reg k s)) (takeEvent s)) := by
  have ho' : isOpenRead row.reg (takeEvent s) = false := ho
  have hread : readReg row.reg k (takeEvent s) = readReg row.reg k s := by cases row.reg <;> rfl
  simp [step, portEvent, runningEvent, he, hr, busRead, hs, ho', hread]

/-- A write that the core drops (10_state.md R61), wherever it comes from. -/
theorem step_of_dropsNextWrite (hr : s.port.inReset = false) (hd : dropsNextWrite s = true) :
    step s = .next (dropWrite (answered s)) := by
  unfold dropsNextWrite at hd
  split at hd
  · rename_i off size w he
    split at hd
    · rename_i row k hs
      obtain ⟨rfl, -⟩ := selectReg_spec hs
      obtain ⟨hb, hreg⟩ := Bool.and_eq_true_iff.mp hd
      rw [step_of_write hr he hs, writeReg_of_busy (s := answered s) hb hreg]
    · cases hd
  · cases hd

/-- The core's part of a state after a transaction was answered, as the statements write it. -/
theorem answered_facingEvent (e : PortEvent) (rest : List PortEvent) :
    answered (facingEvent e rest s) = { s with port := portAnswered .ok rest s.port } := rfl

end Writes

/-- Settles O12: the offset selects CMD or an operand register, and the busy core drops that write. -/
theorem busyWriteDropped : Obligations.BusyWriteDropped := by
  intro s off w rest hb h4 hrange
  have hres : reservedOffset off = false := by simp [reservedOffset]; omega
  obtain ⟨row, k, hs⟩ := exists_selectReg h4 hres
  rw [step_of_write (facingEvent_inReset ..) (nextEvent_facingEvent ..) hs, answered_facingEvent,
    writeReg_of_busy (s := { s with port := portAnswered .ok rest s.port }) hb ((droppedWhenBusy_iff hs).mpr hrange)]
  rfl

/-- Settles O13: the offset selects a read-only register, which ignores the write. -/
theorem readOnlyWriteIgnored : Obligations.ReadOnlyWriteIgnored := by
  intro s off w rest h4 hrange
  have hres : reservedOffset off = false := by simp [reservedOffset]; omega
  obtain ⟨row, k, hs⟩ := exists_selectReg h4 hres
  obtain ⟨-, hm, -⟩ := selectReg_spec hs
  rw [step_of_write (facingEvent_inReset ..) (nextEvent_facingEvent ..) hs, answered_facingEvent,
    writeReg_of_readOnly hm ((readOnly_iff hs).mpr hrange)]

/-! ### CTRL and INTSTAT (10_state.md R43, R44) -/

theorem selectReg_ctrl : selectReg 0x00C .word = some (⟨0x00C, .ctrl, 1, .rw⟩, 0) := by decide

theorem selectReg_intstat : selectReg 0x010 .word = some (⟨0x010, .intstat, 1, .rw1c⟩, 0) := by decide

theorem ctrlWord_eq (s : State) : ctrlWord s = if s.engine.ie then 1 else 0 := by
  unfold ctrlWord
  cases s.engine.ie <;> rfl

/-- CTRL is a result of no command, so no read of it is open (20_memory.md R109). -/
theorem isOpenRead_ctrl (s : State) : isOpenRead .ctrl s = false := by
  unfold isOpenRead
  split
  · rfl
  · rename_i f _
    cases f.job <;> rfl

/-- Settles O14: CTRL is neither dropped while busy nor an open read. -/
theorem ctrlHoldsInterruptEnable : Obligations.CtrlHoldsInterruptEnable := by
  refine ⟨rfl, fun s w rest => ?_, fun s rest => ?_⟩
  · rw [step_of_write (facingEvent_inReset ..) (nextEvent_facingEvent ..) selectReg_ctrl, answered_facingEvent]
    rfl
  · rw [step_of_read (facingEvent_inReset ..) (nextEvent_facingEvent ..) selectReg_ctrl (isOpenRead_ctrl _), readReg,
      ctrlWord_eq]
    rfl

/-- Settles O15: INTSTAT is not dropped while busy. -/
theorem intstatWriteOneClears : Obligations.IntstatWriteOneClears := by
  intro s w rest
  rw [step_of_write (facingEvent_inReset ..) (nextEvent_facingEvent ..) selectReg_intstat, answered_facingEvent,
    writeReg]
  exact congrArg _ (State.eq_of_parts (writeIntstat_poly ..) (writeIntstat_curve ..) (writeIntstat_engine ..)
    (writeIntstat_port ..))

/-! ### STATUS (10_state.md R35, R41, R42) -/

theorem toNat_append_eq_add {m n : Nat} (x : BitVec m) (y : BitVec n) :
    (x ++ y).toNat = x.toNat * 2 ^ n + y.toNat := by
  rw [BitVec.toNat_append, ← Nat.shiftLeft_add_eq_or_of_lt y.isLt, Nat.shiftLeft_eq]

theorem isBusy_toNat (s : State) : (isBusy s).toNat = if s.engine.inflight = none then 0 else 1 := by
  unfold isBusy
  cases s.engine.inflight <;> simp

/-- STATUS is a concatenation, so its number is the sum of its fields at their weights. -/
theorem statusWord_toNat (s : State) :
    (statusWord s).toNat =
      (isBusy s).toNat + 2 * s.engine.errs.toNat + 4 * s.engine.ovr.toNat + 2 ^ 4 * s.engine.err.code.toNat
        + 2 ^ 8 * s.poly.pstate.code.toNat + 2 ^ 16 * s.poly.ctx.bufLen.toNat := by
  simp only [statusWord, toNat_append_eq_add, BitVec.toNat_ofBool, BitVec.toNat_ofNat]
  omega

/-- STATUS.PSTATE is bits 9 and 8 (10_state.md R40). -/
theorem statusWord_pstate (s : State) : (statusWord s).toNat / 2 ^ 8 % 2 ^ 2 = s.poly.pstate.code.toNat := by
  have hbusy := Bool.toNat_le (isBusy s)
  have herrs := Bool.toNat_le s.engine.errs
  have hovr := Bool.toNat_le s.engine.ovr
  have herr := s.engine.err.code.isLt
  have hpstate := s.poly.pstate.code.isLt
  rw [statusWord_toNat]
  omega

/-- Settles O17, from the sum of the fields, code by code. -/
theorem statusFields : Obligations.StatusFields := by
  intro s
  rw [statusWord_toNat, isBusy_toNat]
  cases s.engine.err <;> cases s.poly.pstate <;> rfl

/-! ### The reset values (10_state.md R63) -/

theorem wordOf_zero (w k : Nat) : wordOf (0 : BitVec w) k = 0 := by simp [wordOf]

theorem readReg_reset (r : Reg) (k : Nat) : readReg r k State.reset = if r = .id then idValue else 0 := by
  cases r
  case id | cmd | status | ctrl | intstat => rfl
  all_goals exact wordOf_zero _ k

/-- ID is the register at offset 0. -/
theorem reg_eq_id_iff {off : BitVec 9} {row : MapRow} {k : Nat} (h : selectReg off .word = some (row, k)) :
    row.reg = .id ↔ off = 0x000 := by
  have hz : off = 0x000 ↔ off.toNat = 0 := BitVec.toNat_inj (y := 0#9) |>.symm
  obtain ⟨-, hm, hk, hoff⟩ := selectReg_spec h
  rw [hz]
  unfold registerMap at hm
  fin_cases hm <;> simp_all

theorem exec_sReset {s : State} (hb : isBusy s = false) : exec .sReset s = .next (resetCore s) :=
  congrArg Host.Outcome.next (unlessBusy_of_idle hb)

/-- Every event but a transaction leaves a core held in reset at its reset values (70_reset_and_hazards.md R500). -/
theorem atReset_of_step_held {s t : State} (hr : s.port.inReset = true) (hs : step s = .next t) : AtReset t := by
  have hheld : step s = heldEvent (nextEvent s) (takeEvent s) := by simp [step, portEvent, hr]
  rw [hheld] at hs
  unfold heldEvent at hs
  split at hs <;> cases hs <;> exact atReset_resetCore _

theorem exists_step_of_resetAssert {s : State} (he : nextEvent s = .resetAssert) :
    ∃ t, step s = .next t ∧ AtReset t := by
  cases hr : s.port.inReset with
  | true => exact ⟨resetCore (takeEvent s), by simp [step, portEvent, he, hr, heldEvent], atReset_resetCore _⟩
  | false => exact ⟨assertReset (takeEvent s), by simp [step, portEvent, he, hr, runningEvent], atReset_resetCore _⟩

/-- Settles O51: every register but ID reads 0 at reset, and both ways to reset end in `resetCore`. -/
theorem resetValues : Obligations.ResetValues := by
  refine ⟨fun off row k hs => ?_, rfl, rfl, rfl, rfl, rfl, fun s hb => ?_, fun s => exists_step_of_resetAssert⟩
  · simp only [readReg_reset, reg_eq_id_iff hs, idValue]
  · exact ⟨_, exec_sReset hb, atReset_resetCore s⟩

end Sys2Proof.Machine
end

section
/-! PROOFS (10_state.md). What one step can do to the sticky bits and to the registers of the two units, each said once;
from it ERRS, OVR, PSTATE, the latched context keys, the operand registers and the result registers. -/

namespace Sys2Proof.Machine

/-! ### The word of an issued instruction (30_encoding.md R147) -/

/-- A word that decodes to a command is the encoding of that command. -/
theorem eq_encode_of_decode {w : Word} {i : Instr} (h : decode w = .cmd i) : w = encode i := by
  obtain ⟨hop, hrsv, hlen, -⟩ := (decode_eq_cmd_iff w i).mp h
  obtain ⟨hopcode, hlenOf⟩ := instrOfOpcode_eq_some hop
  have hlen' : lenOf i = lenField w := by
    rw [hlenOf]
    split
    · rfl
    · exact (hlen.resolve_left ‹_›).symm
  have hrsv' : (rsvField w).toNat = 0 := by rw [hrsv]; rfl
  apply BitVec.eq_of_toNat_eq
  rw [encode_toNat, hopcode, hlen', opField_toNat, lenField_toNat]
  rw [rsvField_toNat] at hrsv'
  omega

/-- No word but its encoding issues an instruction other than P_ADD: the BadLen words are all P_ADDs. -/
theorem eq_encode_of_instr? {w : Word} {i : Instr} (h : (decode w).instr? = some i) (hi : ∀ len, i ≠ .pAdd len) :
    w = encode i := by
  cases hd : decode w <;> rw [hd] at h <;> cases h
  · exact eq_encode_of_decode hd
  · exact absurd rfl (hi _)

/-! ### Reset (10_state.md R63) -/

/-- Every way to reset leaves the reset values. -/
theorem atReset_of_resetsNext {s t : State} (h : resetsNext s) (hs : step s = .next t) : AtReset t := by
  obtain hi | ha | hr := h
  · have hstep : step s = .next (resetCore (answered s)) := by
      rw [step_of_issuesNext hi]
      exact exec_sReset (s := answered s) hi.2.1
    rw [hstep] at hs
    cases hs
    exact atReset_resetCore _
  · obtain ⟨u, hu, hreset⟩ := exists_step_of_resetAssert ha
    rw [hu] at hs
    cases hs
    exact hreset
  · exact atReset_of_step_held hr hs

/-! ### The sticky bits (10_state.md R37, R38) -/

/-- What one step can do to ERRS and OVR. -/
inductive StickyCase (s t : State) : Prop
  | kept (he : t.engine.errs = s.engine.errs) (ho : t.engine.ovr = s.engine.ovr)
  | rejected (he : t.engine.errs = true) (ho : t.engine.ovr = s.engine.ovr)
  | dropped (hd : dropsNextWrite s = true) (he : t.engine.errs = true) (ho : t.engine.ovr = true)
  | cleared (hc : issuesNext (encode .clrErr) s ∨ resetsNext s) (he : t.engine.errs = false)
      (ho : t.engine.ovr = false)

theorem StickyCase.of_reset {s t : State} (h : resetsNext s) (hs : step s = .next t) : StickyCase s t := by
  obtain ⟨-, -, he⟩ := atReset_of_resetsNext h hs
  exact .cleared (.inr h) (by rw [he]; rfl) (by rw [he]; rfl)

theorem step_sticky_cases {s t : State} (hs : step s = .next t) : StickyCase s t := by
  cases step_cases hs with
  | held hr => exact .of_reset (.inr (.inr hr)) hs
  | released hr => exact .of_reset (.inr (.inr hr)) hs
  | asserted _ he => exact .of_reset (.inr (.inl he)) hs
  | dropped _ hb off w row k he hsel hd =>
    exact .dropped (by simp [dropsNextWrite, he, hsel, hb, hd]) rfl rfl
  | illegal => exact .rejected rfl rfl
  | intstat => exact .kept (by simp) (by simp)
  | completed => exact .kept (by simp [complete]; split <;> simp) (by simp [complete]; split <;> simp)
  | issued w i _ hi hd ht =>
    cases ht with
    | rejected => exact .rejected rfl rfl
    | nop => exact .kept rfl rfl
    | accepted => exact .kept rfl rfl
    | clrErr h =>
      subst h
      rw [eq_encode_of_instr? hd (by simp)] at hi
      exact .cleared (.inl hi) rfl rfl
    | sReset h =>
      subst h
      rw [eq_encode_of_instr? hd (by simp)] at hi
      exact .of_reset (.inl hi) hs
  | _ => exact .kept rfl rfl

/-- Settles O18: by what a step can do to the sticky bits, and for the last clause by `Sound`. -/
theorem errsIsSticky : Obligations.ErrsIsSticky := by
  intro s t hs
  refine ⟨fun h h' => ?_, fun h h' => ?_, fun hr hd => ?_, fun h => (h.step hs).errors.1⟩
  · cases step_sticky_cases hs with
    | kept he => rw [he, h] at h'; cases h'
    | rejected he => rw [he] at h'; cases h'
    | dropped _ he => rw [he] at h'; cases h'
    | cleared hc => exact hc
  · cases step_sticky_cases hs with
    | kept _ ho => rw [ho, h] at h'; cases h'
    | rejected he => exact he
    | dropped _ he => exact he
    | cleared _ _ ho => rw [ho] at h'; cases h'
  · rw [step_of_dropsNextWrite hr hd] at hs
    cases hs
    rfl

/-- Settles O19: of what a step can do to OVR, only a dropped write sets it. -/
theorem ovrMarksDroppedWrites : Obligations.OvrMarksDroppedWrites := by
  intro s t hs
  refine ⟨fun hr hd => ?_, fun h h' => ?_, fun h h' => ?_⟩
  · rw [step_of_dropsNextWrite hr hd] at hs
    cases hs
    rfl
  · cases step_sticky_cases hs with
    | kept _ ho => rw [ho, h] at h'; cases h'
    | rejected _ ho => rw [ho, h] at h'; cases h'
    | dropped hd => exact hd
    | cleared _ _ ho => rw [ho] at h'; cases h'
  · cases step_sticky_cases hs with
    | kept _ ho => rw [ho, h] at h'; cases h'
    | rejected _ ho => rw [ho, h] at h'; cases h'
    | dropped _ _ ho => rw [ho] at h'; cases h'
    | cleared hc => exact hc

/-! ### What an effect writes (30_encoding.md R143, R163) -/

section Effects

variable {j : Job} {s : State}

@[simp] theorem effectOf_pInit (key : BitVec 256) : effectOf (.pInit key) s = effectPInit key s := rfl
@[simp] theorem effectOf_pAdd (len : BitVec 5) (pdata : BitVec 128) (ctx : PolyCtx) :
    effectOf (.pAdd len pdata ctx) s = effectPAdd len pdata ctx s := rfl
@[simp] theorem effectOf_pFinish (ctx : PolyCtx) : effectOf (.pFinish ctx) s = effectPFinish ctx s := rfl
@[simp] theorem effectOf_xBase (k : BitVec 256) :
    effectOf (.xBase k) s = writeXOut (x25519 Config.uMaskBit255 k (fieldBytes 9)) s := rfl
@[simp] theorem effectOf_xMul (k u : BitVec 256) :
    effectOf (.xMul k u) s = writeXOut (x25519 Config.uMaskBit255 k u) s := rfl
@[simp] theorem effectOf_fAdd (a b : BitVec 256) :
    effectOf (.fAdd a b) s = writeFR (feAdd (fieldOperand a) (fieldOperand b)) s := rfl
@[simp] theorem effectOf_fSub (a b : BitVec 256) :
    effectOf (.fSub a b) s = writeFR (feSub (fieldOperand a) (fieldOperand b)) s := rfl
@[simp] theorem effectOf_fMul (a b : BitVec 256) :
    effectOf (.fMul a b) s = writeFR (feMul (fieldOperand a) (fieldOperand b)) s := rfl
@[simp] theorem effectOf_fSqr (a : BitVec 256) : effectOf (.fSqr a) s = writeFR (feSqr (fieldOperand a)) s := rfl
@[simp] theorem effectOf_fInv (a : BitVec 256) : effectOf (.fInv a) s = writeFR (feInv (fieldOperand a)) s := rfl

/-- What an effect writes in the Poly1305 unit depends on that unit alone (10_state.md R62). -/
theorem effectOf_poly_congr (j : Job) {s t : State} (h : s.poly = t.poly) :
    (effectOf j s).poly = (effectOf j t).poly := by
  cases hj : j.onCurve with
  | true => rw [effectOf_poly_of_onCurve hj, effectOf_poly_of_onCurve hj, h]
  | false => cases j <;> simp_all [Job.onCurve]

/-- What an effect writes in the curve unit depends on that unit alone (10_state.md R62). -/
theorem effectOf_curve_congr (j : Job) {s t : State} (h : s.curve = t.curve) :
    (effectOf j s).curve = (effectOf j t).curve := by
  cases hj : j.onCurve with
  | true =>
    cases j <;> simp_all [Job.onCurve]
  | false => rw [effectOf_curve_of_onPoly hj, effectOf_curve_of_onPoly hj, h]

/-- No effect writes an operand register (92_eei_decisions.md D28). -/
theorem effectOf_operands (j : Job) (s : State) :
    ((effectOf j s).poly.pkey = s.poly.pkey ∧ (effectOf j s).poly.pdata = s.poly.pdata) ∧
    ((effectOf j s).curve.xscalar = s.curve.xscalar ∧ (effectOf j s).curve.xu = s.curve.xu ∧
      (effectOf j s).curve.fa = s.curve.fa ∧ (effectOf j s).curve.fb = s.curve.fb) := by
  cases j <;> simp

/-- Only P_INIT and P_FINISH open or close a context (10_state.md R40, R56, R57). -/
theorem effectOf_context (hi : j.instr ≠ .pInit) (hf : j.instr ≠ .pFinish) :
    (effectOf j s).poly.pstate = s.poly.pstate ∧ (effectOf j s).poly.ctx.r = s.poly.ctx.r ∧
      (effectOf j s).poly.ctx.s = s.poly.ctx.s := by
  cases j
  case pInit => exact absurd rfl hi
  case pFinish => exact absurd rfl hf
  all_goals simp

theorem effectOf_pstate_of_pInit (h : j.instr = .pInit) : (effectOf j s).poly.pstate = .active := by
  cases j <;> cases h
  rfl

theorem effectOf_pstate_of_pFinish (h : j.instr = .pFinish) : (effectOf j s).poly.pstate = .done := by
  cases j <;> cases h
  rfl

theorem effectOf_ptag (h : j.instr ∉ [Instr.pFinish]) : (effectOf j s).poly.ptag = s.poly.ptag := by
  cases j
  case pFinish => simp [Job.instr] at h
  all_goals simp

theorem effectOf_xout (h : j.instr ∉ [Instr.xBase, .xMul]) : (effectOf j s).curve.xout = s.curve.xout := by
  cases j
  case xBase | xMul => simp [Job.instr] at h
  all_goals simp

theorem effectOf_fr (h : j.instr ∉ [Instr.fAdd, .fSub, .fMul, .fSqr, .fInv]) :
    (effectOf j s).curve.fr = s.curve.fr := by
  cases j
  case fAdd | fSub | fMul | fSqr | fInv => simp [Job.instr] at h
  all_goals simp

end Effects

/-! ### What a step does to the registers of the two units -/

/-- The host writes a word between two offsets while nothing is in flight. -/
def hostWrote (s : State) (lo hi : Nat) : Prop :=
  isBusy s = false ∧ ∃ off w, nextEvent s = .bus (.write off .word w) ∧ lo ≤ off.toNat ∧ off.toNat ≤ hi

theorem hostWrote.of_word {s : State} {lo hi k : Nat} {w : Word} (hb : isBusy s = false)
    (he : nextEvent s = .bus (.write (BitVec.ofNat 9 (lo + 4 * k)) .word w)) (hk : lo + 4 * k ≤ hi)
    (hhi : hi < 2 ^ 9) : hostWrote s lo hi := by
  have hoff : (BitVec.ofNat 9 (lo + 4 * k)).toNat = lo + 4 * k := by
    rw [BitVec.toNat_ofNat, Nat.mod_eq_of_lt (by omega)]
  exact ⟨hb, _, w, he, by omega, by omega⟩

/-- What one step can do to the registers of the two units: leave them, reset them, write one operand register, or apply
the effect of a completion. -/
inductive RegsCase (s t : State) : Prop
  | kept (hp : t.poly = s.poly) (hc : t.curve = s.curve)
  | reset (hr : resetsNext s)
  | pkey (hw : hostWrote s 0x020 0x03C) (x : BitVec 256) (hp : t.poly = { s.poly with pkey := x })
      (hc : t.curve = s.curve)
  | pdata (hw : hostWrote s 0x040 0x04C) (x : BitVec 128) (hp : t.poly = { s.poly with pdata := x })
      (hc : t.curve = s.curve)
  | xscalar (hw : hostWrote s 0x0A0 0x0BC) (x : BitVec 256) (hp : t.poly = s.poly)
      (hc : t.curve = { s.curve with xscalar := x })
  | xu (hw : hostWrote s 0x0C0 0x0DC) (x : BitVec 256) (hp : t.poly = s.poly) (hc : t.curve = { s.curve with xu := x })
  | fa (hw : hostWrote s 0x100 0x11C) (x : BitVec 256) (hp : t.poly = s.poly) (hc : t.curve = { s.curve with fa := x })
  | fb (hw : hostWrote s 0x120 0x13C) (x : BitVec 256) (hp : t.poly = s.poly) (hc : t.curve = { s.curve with fb := x })
  | completed (f : InFlight) (hf : completesNext s f) (hp : t.poly = (effectOf f.job s).poly)
      (hc : t.curve = (effectOf f.job s).curve)

/-- The registers after a completion are the effect's (30_encoding.md R163). -/
theorem regs_of_completesNext {s t : State} {f : InFlight} (hf : completesNext s f) (hs : step s = .next t) :
    t.poly = (effectOf f.job s).poly ∧ t.curve = (effectOf f.job s).curve := by
  have hflight : (takeEvent s).engine.inflight = some f := hf.2.1
  rw [step_of_completesNext hf, complete_of_some hflight] at hs
  cases hs
  exact ⟨effectOf_poly_congr f.job rfl, effectOf_curve_congr f.job rfl⟩

theorem step_regs_cases {s t : State} (hs : step s = .next t) : RegsCase s t := by
  cases step_cases hs with
  | held hr => exact .reset (.inr (.inr hr))
  | released hr => exact .reset (.inr (.inr hr))
  | asserted _ he => exact .reset (.inr (.inl he))
  | intstat => exact .kept (by simp) (by simp)
  | wrotePKey _ hb k hk w he => exact .pkey (.of_word hb he (by omega) (by norm_num)) _ rfl rfl
  | wrotePData _ hb k hk w he => exact .pdata (.of_word hb he (by omega) (by norm_num)) _ rfl rfl
  | wroteXScalar _ hb k hk w he => exact .xscalar (.of_word hb he (by omega) (by norm_num)) _ rfl rfl
  | wroteXU _ hb k hk w he => exact .xu (.of_word hb he (by omega) (by norm_num)) _ rfl rfl
  | wroteFA _ hb k hk w he => exact .fa (.of_word hb he (by omega) (by norm_num)) _ rfl rfl
  | wroteFB _ hb k hk w he => exact .fb (.of_word hb he (by omega) (by norm_num)) _ rfl rfl
  | completed f hf =>
    obtain ⟨hp, hc⟩ := regs_of_completesNext hf hs
    exact .completed f hf hp hc
  | issued w i _ hi hd ht =>
    cases ht with
    | sReset h =>
      subst h
      rw [eq_encode_of_instr? hd (by simp)] at hi
      exact .reset (.inl hi)
    | _ => exact .kept rfl rfl
  | _ => exact .kept rfl rfl

/-- The context and every result are as they were. -/
structure ResultsKept (s t : State) : Prop where
  ptag : t.poly.ptag = s.poly.ptag
  ctx : t.poly.ctx = s.poly.ctx
  pstate : t.poly.pstate = s.poly.pstate
  xout : t.curve.xout = s.curve.xout
  fr : t.curve.fr = s.curve.fr

/-- Only a reset or a completion changes the context or a result. -/
theorem step_results_cases {s t : State} (hs : step s = .next t) :
    ResultsKept s t ∨ resetsNext s ∨ ∃ f, completesNext s f ∧
      t.poly = (effectOf f.job s).poly ∧ t.curve = (effectOf f.job s).curve := by
  cases step_regs_cases hs with
  | reset hr => exact .inr (.inl hr)
  | completed f hf hp hc => exact .inr (.inr ⟨f, hf, hp, hc⟩)
  | _ => rename_i hp hc; exact .inl (by constructor <;> simp only [hp, hc])

/-! ### PSTATE, the context keys, operands and results -/

/-- P_FINISH is in flight only with a context open (40_poly1305.md R215). -/
theorem Sound.active_of_pFinish {s : State} {f : InFlight} (h : Sound s) (hf : s.engine.inflight = some f)
    (hi : f.job.instr = .pFinish) : s.poly.pstate = .active := by
  obtain ⟨hsnap, -⟩ := h.flight f hf
  cases hj : f.job <;> rw [hj] at hi hsnap <;> cases hi
  exact hsnap.2

/-- Settles O55: PSTATE moves only by the effect of P_INIT or P_FINISH, or by reset; `Sound` gives the open context. -/
theorem pStateTransitions : Obligations.PStateTransitions := by
  refine ⟨fun s => ?_, fun s t h hs => ⟨fun hne => ?_, fun f hf hi => ?_, fun f hf hi => ?_, fun hr => ?_⟩⟩
  · rw [statusWord_pstate]
    cases s.poly.pstate <;> rfl
  · obtain hk | hr | ⟨f, hf, hp, -⟩ := step_results_cases hs
    · exact absurd hk.pstate hne
    · obtain ⟨hp, -⟩ := atReset_of_resetsNext hr hs
      exact .inr (.inr ⟨by rw [hp]; rfl, hr⟩)
    · by_cases hinit : f.job.instr = .pInit
      · exact .inl ⟨by rw [hp, effectOf_pstate_of_pInit hinit], f, hf, hinit⟩
      by_cases hfin : f.job.instr = .pFinish
      · exact .inr (.inl ⟨h.active_of_pFinish hf.2.1 hfin, by rw [hp, effectOf_pstate_of_pFinish hfin], f, hf, hfin⟩)
      exact absurd (by rw [hp, (effectOf_context hinit hfin).1]) hne
  · rw [(regs_of_completesNext hf hs).1, effectOf_pstate_of_pInit hi]
  · exact ⟨h.active_of_pFinish hf.2.1 hi, by rw [(regs_of_completesNext hf hs).1, effectOf_pstate_of_pFinish hi]⟩
  · obtain ⟨hp, -⟩ := atReset_of_resetsNext hr hs
    rw [hp]
    rfl

/-- Settles O56: every effect but those of P_INIT and P_FINISH keeps both keys. -/
theorem contextKeysLatched : Obligations.ContextKeysLatched := by
  intro s t hs hne
  obtain hk | hr | ⟨f, hf, hp, -⟩ := step_results_cases hs
  · rw [hk.ctx] at hne
    simp at hne
  · exact .inl hr
  · refine .inr ⟨f, hf, ?_⟩
    by_contra hi
    obtain ⟨hinit, hfin⟩ := not_or.mp hi
    obtain ⟨-, hctxr, hctxs⟩ := effectOf_context (s := s) hinit hfin
    rw [hp, hctxr, hctxs] at hne
    simp at hne

/-- Settles O57: a completion writes no operand register, and every other way to write one is the host's. -/
theorem operandsOnlyHostWritten : Obligations.OperandsOnlyHostWritten := by
  intro s t hs hnr
  cases step_regs_cases hs with
  | kept hp hc => simp [hp, hc]
  | reset hr => exact absurd hr hnr
  | pkey hw x hp hc => exact ⟨fun _ => hw, by simp [hp, hc]⟩
  | pdata hw x hp hc => exact ⟨by simp [hp], fun _ => hw, by simp [hc]⟩
  | xscalar hw x hp hc => exact ⟨by simp [hp], by simp [hp], fun _ => hw, by simp [hc]⟩
  | xu hw x hp hc => exact ⟨by simp [hp], by simp [hp], by simp [hc], fun _ => hw, by simp [hc]⟩
  | fa hw x hp hc => exact ⟨by simp [hp], by simp [hp], by simp [hc], by simp [hc], fun _ => hw, by simp [hc]⟩
  | fb hw x hp hc => exact ⟨by simp [hp], by simp [hp], by simp [hc], by simp [hc], by simp [hc], fun _ => hw⟩
  | completed f hf hp hc =>
    obtain ⟨⟨hpkey, hpdata⟩, hxscalar, hxu, hfa, hfb⟩ := effectOf_operands f.job s
    simp [hp, hc, hpkey, hpdata, hxscalar, hxu, hfa, hfb]

/-- Settles O58: each result register is written by the effects of its own commands alone. -/
theorem resultsOnlyOnCompletion : Obligations.ResultsOnlyOnCompletion := by
  intro s t hs hnr completed
  obtain hk | hr | ⟨f, hf, hp, hc⟩ := step_results_cases hs
  · exact ⟨fun hne => absurd hk.ptag hne, fun hne => absurd hk.xout hne, fun hne => absurd hk.fr hne⟩
  · exact absurd hr hnr
  · have hcompleted : ∀ is, ¬completed is → f.job.instr ∉ is := fun is hn hi => hn ⟨f, hf, hi⟩
    rw [hp, hc]
    exact ⟨fun hne => by_contra fun hn => hne (effectOf_ptag (hcompleted _ hn)),
      fun hne => by_contra fun hn => hne (effectOf_xout (hcompleted _ hn)),
      fun hne => by_contra fun hn => hne (effectOf_fr (hcompleted _ hn))⟩

end Sys2Proof.Machine
end

section
/-! PROOFS (10_state.md R62). Noninterference: an observer sees part of the two units and, where it must not see a
snapshot, only the command in flight. Every operation of the core takes states that look the same to states that look
the same; one observer sees everything but the Curve25519 registers, the other everything but the Poly1305 ones. -/

namespace Sys2Proof.Machine

/-! ### Observers -/

/-- What of the two units an observer can compare, and which snapshots are hidden from it. -/
structure Observer where
  poly : PolyUnit → PolyUnit → Prop
  curve : CurveUnit → CurveUnit → Prop
  hide : Job → Bool

/-- Two jobs look the same: the same command, and the same snapshot unless it is hidden. -/
def Observer.SameJob (o : Observer) (j k : Job) : Prop :=
  j.instr = k.instr ∧ (if o.hide j then none else some j) = if o.hide k then none else some k

/-- Two states look the same, whatever the last bus response was. -/
structure Observer.Same (o : Observer) (s t : State) : Prop where
  poly : o.poly s.poly t.poly
  curve : o.curve s.curve t.curve
  flight : hiddenFlight o.hide s.engine.inflight = hiddenFlight o.hide t.engine.inflight
  engine : { s.engine with inflight := none } = { t.engine with inflight := none }
  port : { s.port with response := none } = { t.port with response := none }

/-- What makes a step unable to tell apart states that look the same to `o`: resets, operand writes, snapshots and
effects keep what `o` compares, and `o` sees PSTATE. -/
structure Observer.Closed (o : Observer) : Prop where
  poly_refl : ∀ p, o.poly p p
  curve_refl : ∀ c, o.curve c c
  pstate : ∀ {p q}, o.poly p q → p.pstate = q.pstate
  pkey : ∀ {p q} k w, o.poly p q →
    o.poly { p with pkey := setWordOf p.pkey k w } { q with pkey := setWordOf q.pkey k w }
  pdata : ∀ {p q} k w, o.poly p q →
    o.poly { p with pdata := setWordOf p.pdata k w } { q with pdata := setWordOf q.pdata k w }
  xscalar : ∀ {c d} k w, o.curve c d →
    o.curve { c with xscalar := setWordOf c.xscalar k w } { d with xscalar := setWordOf d.xscalar k w }
  xu : ∀ {c d} k w, o.curve c d → o.curve { c with xu := setWordOf c.xu k w } { d with xu := setWordOf d.xu k w }
  fa : ∀ {c d} k w, o.curve c d → o.curve { c with fa := setWordOf c.fa k w } { d with fa := setWordOf d.fa k w }
  fb : ∀ {c d} k w, o.curve c d → o.curve { c with fb := setWordOf c.fb k w } { d with fb := setWordOf d.fb k w }
  snapshot : ∀ {p q c d j k}, o.poly p q → o.curve c d → SnapshotSound j p c → SnapshotSound k q d →
    j.instr = k.instr → o.SameJob j k
  effect : ∀ {s t j k}, o.SameJob j k → o.poly s.poly t.poly → o.curve s.curve t.curve →
    o.poly (effectOf j s).poly (effectOf k t).poly ∧ o.curve (effectOf j s).curve (effectOf k t).curve

/-- The second outcome goes on wherever the first does, to a state that looks the same. -/
def Observer.Follows (o : Observer) (x y : Host.Outcome State Fault Refusal) : Prop :=
  ∀ s', x = .next s' → ∃ t', y = .next t' ∧ o.Same s' t'

namespace Observer

variable {o : Observer} {s t : State}

theorem Follows.next (h : o.Same s t) : o.Follows (.next s) (.next t) := by
  intro s' hs
  cases hs
  exact ⟨t, rfl, h⟩

theorem Follows.fault (r : Fault) (y : Host.Outcome State Fault Refusal) : o.Follows (.fault r) y := by
  intro s' hs
  cases hs

theorem SameJob.of_hidden {j k : Job} (hi : j.instr = k.instr) (hj : o.hide j = true) (hk : o.hide k = true) :
    o.SameJob j k :=
  ⟨hi, by rw [if_pos hj, if_pos hk]⟩

theorem SameJob.cases {j k : Job} (h : o.SameJob j k) : (o.hide j = true ∧ o.hide k = true) ∨ j = k := by
  obtain ⟨-, h⟩ := h
  split at h <;> split at h
  · exact .inl ⟨‹_›, ‹_›⟩
  · cases h
  · cases h
  · exact .inr (Option.some.inj h)

namespace Same

/-! ### What two states that look the same agree on -/

theorem port_eq (h : o.Same s t) :
    s.port.inReset = t.port.inReset ∧ s.port.pending = t.port.pending ∧ s.port.draws = t.port.draws := by
  simpa using h.port

theorem engine_eq (h : o.Same s t) :
    s.engine.err = t.engine.err ∧ s.engine.errs = t.engine.errs ∧ s.engine.ovr = t.engine.ovr ∧
      s.engine.ie = t.engine.ie ∧ s.engine.done = t.engine.done := by
  simpa using h.engine

theorem nextEvent_eq (h : o.Same s t) : nextEvent s = nextEvent t := by
  obtain ⟨-, hp, -⟩ := h.port_eq
  rw [nextEvent, nextEvent, hp]

/-- Both have nothing in flight, or jobs that look the same with as many cycles left. -/
theorem flight_cases (h : o.Same s t) :
    (s.engine.inflight = none ∧ t.engine.inflight = none) ∨
      ∃ f g, s.engine.inflight = some f ∧ t.engine.inflight = some g ∧ o.SameJob f.job g.job ∧
        f.remaining = g.remaining := by
  have hf := h.flight
  cases hs : s.engine.inflight <;> cases ht : t.engine.inflight <;> rw [hs, ht] at hf
  case none.none => exact .inl ⟨rfl, rfl⟩
  case none.some => cases hf
  case some.none => cases hf
  case some.some f g =>
    obtain ⟨hi, hr, hj⟩ : f.job.instr = g.job.instr ∧ f.remaining = g.remaining ∧ _ := by
      simpa only [hiddenFlight, Option.map_some, Option.some.injEq, Prod.mk.injEq] using hf
    exact .inr ⟨f, g, rfl, rfl, ⟨hi, hj⟩, hr⟩

theorem isBusy_eq (h : o.Same s t) : isBusy s = isBusy t := by
  obtain ⟨hs, ht⟩ | ⟨f, g, hs, ht, -⟩ := h.flight_cases <;> simp [isBusy, hs, ht]

theorem isOpenRead_eq (h : o.Same s t) (r : Reg) : isOpenRead r s = isOpenRead r t := by
  obtain ⟨hs, ht⟩ | ⟨f, g, hs, ht, ⟨hi, -⟩, -⟩ := h.flight_cases
  · simp [isOpenRead, hs, ht]
  · simp [isOpenRead, hs, ht, hi]

theorem irqLine_eq (h : o.Same s t) : irqLine s = irqLine t := by
  obtain ⟨-, -, -, hie, hdone⟩ := h.engine_eq
  rw [irqLine, irqLine, hie, hdone]

/-! ### The operations on the engine and the pins -/

theorem respond (h : o.Same s t) (a b : Response) : o.Same (respond a s) (respond b t) :=
  ⟨h.poly, h.curve, h.flight, h.engine, h.port⟩

theorem takeEvent (h : o.Same s t) : o.Same (takeEvent s) (takeEvent t) :=
  { h with port := congrArg (fun p => { p with pending := p.pending.tail }) h.port }

theorem draw (h : o.Same s t) :
    o.Same { s with port := { s.port with draws := s.port.draws + 1 } }
      { t with port := { t.port with draws := t.port.draws + 1 } } :=
  { h with port := congrArg (fun p => { p with draws := p.draws + 1 }) h.port }

theorem setReset (h : o.Same s t) (b : Bool) :
    o.Same { s with port := { s.port with inReset := b } } { t with port := { t.port with inReset := b } } :=
  { h with port := congrArg (fun p => { p with inReset := b }) h.port }

theorem dropWrite (h : o.Same s t) : o.Same (dropWrite s) (dropWrite t) :=
  { h with engine := congrArg (fun e => { e with ovr := true, errs := true }) h.engine }

theorem completeRejected (h : o.Same s t) (code : ErrCode) :
    o.Same (completeRejected code s) (completeRejected code t) :=
  { h with engine := congrArg (fun e => { e with err := code, errs := true, done := true }) h.engine }

theorem performNop (h : o.Same s t) : o.Same (performNop s) (performNop t) :=
  { h with engine := congrArg (fun e => { e with err := .ok, done := true }) h.engine }

theorem performClrErr (h : o.Same s t) : o.Same (performClrErr s) (performClrErr t) :=
  { h with engine := congrArg (fun e => { e with err := .ok, errs := false, ovr := false, done := true }) h.engine }

theorem writeCtrl (h : o.Same s t) (w : Word) : o.Same (writeCtrl w s) (writeCtrl w t) :=
  { h with engine := congrArg (fun e => { e with ie := w.getLsbD 0 }) h.engine }

theorem writeIntstat (h : o.Same s t) (w : Word) : o.Same (writeIntstat w s) (writeIntstat w t) := by
  unfold Machine.writeIntstat
  split
  · exact { h with engine := congrArg (fun e => { e with done := false }) h.engine }
  · exact h

theorem unlessBusy (h : o.Same s t) {f : State → State} (hf : o.Same (f s) (f t)) :
    o.Same (unlessBusy f s) (unlessBusy f t) := by
  unfold Machine.unlessBusy
  rw [← h.isBusy_eq]
  split
  · exact h.dropWrite
  · exact hf

theorem accept (h : o.Same s t) {j k : Job} (hj : o.SameJob j k) : o.Same (accept j s) (accept k t) := by
  obtain ⟨hi, hsnap⟩ := hj
  refine { h with flight := ?_, engine := h.engine }
  simp only [accept_engine, hiddenFlight, Option.map_some, Job.latency, hi, hsnap]

theorem countDown (h : o.Same s t) {f g : InFlight} (hj : o.SameJob f.job g.job) (hr : f.remaining = g.remaining) :
    o.Same { s with engine := { s.engine with inflight := some { f with remaining := f.remaining - 1 } } }
      { t with engine := { t.engine with inflight := some { g with remaining := g.remaining - 1 } } } := by
  obtain ⟨hi, hsnap⟩ := hj
  refine { h with flight := ?_, engine := h.engine }
  simp only [hiddenFlight, Option.map_some, hi, hsnap, hr]

theorem busRead (h : o.Same s t) (off : BitVec 9) (size : AccessSize) :
    o.Follows (busRead off size s) (busRead off size t) := by
  unfold Machine.busRead
  split
  · exact .fault _ _
  · rw [← h.isOpenRead_eq]
    split
    · exact .next (h.draw.respond _ _)
    · exact .next (h.respond _ _)

/-! ### The operations on the units -/

section Closed

variable (c : o.Closed)

include c

theorem resetCore (h : o.Same s t) : o.Same (resetCore s) (resetCore t) :=
  ⟨c.poly_refl _, c.curve_refl _, rfl, rfl, h.port⟩

theorem complete (h : o.Same s t) : o.Same (complete s) (complete t) := by
  obtain ⟨hs, ht⟩ | ⟨f, g, hs, ht, hj, -⟩ := h.flight_cases
  · rwa [complete_of_none hs, complete_of_none ht]
  · rw [complete_of_some hs, complete_of_some ht]
    obtain ⟨hpoly, hcurve⟩ := c.effect hj h.poly h.curve
    refine ⟨hpoly, hcurve, rfl, ?_, by simpa using h.port⟩
    simp only [retire_engine, effectOf_engine]
    exact congrArg (fun e => { e with err := .ok, done := true }) h.engine

theorem clockTick (h : o.Same s t) : o.Same (clockTick s) (clockTick t) := by
  obtain ⟨hs, ht⟩ | ⟨f, g, hs, ht, hj, hr⟩ := h.flight_cases
  · rwa [clockTick_of_none hs, clockTick_of_none ht]
  by_cases hm : 1 < f.remaining
  · rw [clockTick_of_more hs hm, clockTick_of_more ht (hr ▸ hm)]
    exact h.countDown hj hr
  · rw [clockTick_of_last hs (by omega), clockTick_of_last ht (by omega)]
    exact h.complete c

theorem whenActive (h : o.Same s t) {f : State → State}
    (hf : s.poly.pstate = .active → t.poly.pstate = .active → o.Same (f s) (f t)) :
    o.Same (whenActive f s) (whenActive f t) := by
  have hp := c.pstate h.poly
  by_cases ha : s.poly.pstate = .active
  · rw [whenActive_of_active ha, whenActive_of_active (hp ▸ ha)]
    exact hf ha (hp ▸ ha)
  · rw [whenActive_of_not_active ha, whenActive_of_not_active (hp ▸ ha)]
    exact h.completeRejected .state

/-- Acceptance of jobs with current snapshots. -/
theorem acceptCurrent (h : o.Same s t) {j k : Job} (hj : SnapshotSound j s.poly s.curve)
    (hk : SnapshotSound k t.poly t.curve) (hi : j.instr = k.instr) : o.Same (Machine.accept j s) (Machine.accept k t) :=
  h.accept (c.snapshot h.poly h.curve hj hk hi)

/-! ### Commands, transactions and events -/

theorem exec (h : o.Same s t) (i : Instr) : o.Follows (exec i s) (exec i t) := by
  cases i <;> refine .next (h.unlessBusy ?_)
  case nop => exact h.performNop
  case clrErr => exact h.performClrErr
  case sReset => exact h.resetCore c
  case pInit => exact h.acceptCurrent c rfl rfl rfl
  case pAdd len =>
    by_cases hl : 16 < len.toNat
    · simpa only [hl, if_true] using h.completeRejected .len
    · have hl' : len.toNat ≤ 16 := Nat.le_of_not_lt hl
      simpa only [hl, if_false] using h.whenActive c fun hs ht =>
        h.acceptCurrent c (j := .pAdd len s.poly.pdata s.poly.ctx) (k := .pAdd len t.poly.pdata t.poly.ctx)
          ⟨hl', rfl, rfl, hs⟩ ⟨hl', rfl, rfl, ht⟩ rfl
  case pFinish =>
    exact h.whenActive c fun hs ht =>
      h.acceptCurrent c (j := .pFinish s.poly.ctx) (k := .pFinish t.poly.ctx) ⟨rfl, hs⟩ ⟨rfl, ht⟩ rfl
  case xBase => exact h.acceptCurrent c rfl rfl rfl
  case xMul => exact h.acceptCurrent c ⟨rfl, rfl⟩ ⟨rfl, rfl⟩ rfl
  case fAdd => exact h.acceptCurrent c ⟨rfl, rfl⟩ ⟨rfl, rfl⟩ rfl
  case fSub => exact h.acceptCurrent c ⟨rfl, rfl⟩ ⟨rfl, rfl⟩ rfl
  case fMul => exact h.acceptCurrent c ⟨rfl, rfl⟩ ⟨rfl, rfl⟩ rfl
  case fSqr => exact h.acceptCurrent c rfl rfl rfl
  case fInv => exact h.acceptCurrent c rfl rfl rfl

theorem issueWord (h : o.Same s t) (w : Word) : o.Follows (issueWord w s) (issueWord w t) := by
  unfold Machine.issueWord
  split
  · exact h.exec c _
  · exact h.exec c _
  · exact .next (h.unlessBusy (h.completeRejected .illegal))

theorem writeReg (h : o.Same s t) (r : Reg) (k : Nat) (w : Word) :
    o.Follows (writeReg r k w s) (writeReg r k w t) := by
  cases r
  case cmd => exact h.issueWord c w
  case ctrl => exact .next (h.writeCtrl w)
  case intstat => exact .next (h.writeIntstat w)
  case pkey => exact .next (h.unlessBusy { h with poly := c.pkey k w h.poly })
  case pdata => exact .next (h.unlessBusy { h with poly := c.pdata k w h.poly })
  case xscalar => exact .next (h.unlessBusy { h with curve := c.xscalar k w h.curve })
  case xu => exact .next (h.unlessBusy { h with curve := c.xu k w h.curve })
  case fa => exact .next (h.unlessBusy { h with curve := c.fa k w h.curve })
  case fb => exact .next (h.unlessBusy { h with curve := c.fb k w h.curve })
  case id | status | ptag | pacc | pr | xout | fr => exact .next h

theorem busWrite (h : o.Same s t) (off : BitVec 9) (size : AccessSize) (w : Word) :
    o.Follows (busWrite off size w s) (busWrite off size w t) := by
  unfold Machine.busWrite
  split
  · exact .fault _ _
  · exact (h.respond .ok .ok).writeReg c _ _ w

theorem runningEvent (h : o.Same s t) (e : PortEvent) : o.Follows (runningEvent e s) (runningEvent e t) := by
  unfold Machine.runningEvent
  split
  · exact h.busRead _ _
  · exact h.busWrite c _ _ _
  · exact .next (h.clockTick c)
  · exact .next (h.complete c)
  · exact .next ((h.setReset true).resetCore c)
  · exact .next h

theorem heldEvent (h : o.Same s t) (e : PortEvent) : o.Follows (heldEvent e s) (heldEvent e t) := by
  unfold Machine.heldEvent
  split
  · exact .fault _ _
  · exact .next (h.resetCore c)
  · exact .next (h.resetCore c)
  · exact .next (h.resetCore c)
  · exact .next ((h.setReset false).resetCore c)

/-- A step from states that look the same: neither stops where the other goes on, and the next states look the same. -/
theorem step (h : o.Same s t) : o.Follows (step s) (step t) := by
  unfold Machine.step portEvent
  rw [← h.nextEvent_eq, ← h.takeEvent.port_eq.1]
  split
  · exact h.takeEvent.heldEvent c _
  · exact h.takeEvent.runningEvent c _

end Closed

end Same

end Observer

/-! ### The two observers -/

theorem Job.onCurve_congr {j k : Job} (h : j.instr = k.instr) : j.onCurve = k.onCurve := by
  cases j <;> cases k <;> cases h <;> rfl

/-- A Poly1305 command's current snapshot is determined by the Poly1305 unit. -/
theorem SnapshotSound.eq_of_poly {j k : Job} {p : PolyUnit} {c d : CurveUnit} (ho : j.onCurve = false)
    (hi : j.instr = k.instr) (hj : SnapshotSound j p c) (hk : SnapshotSound k p d) : j = k := by
  cases j <;> cases ho <;> cases k <;> cases hi <;> simp_all

/-- A Curve25519 or field command's current snapshot is determined by the curve unit. -/
theorem SnapshotSound.eq_of_curve {j k : Job} {p q : PolyUnit} {c : CurveUnit} (ho : j.onCurve = true)
    (hi : j.instr = k.instr) (hj : SnapshotSound j p c) (hk : SnapshotSound k q c) : j = k := by
  cases j <;> cases ho <;> cases k <;> cases hi <;> simp_all

/-- Everything but the Curve25519 and field registers. -/
def Observer.butCurve : Observer := { poly := Eq, curve := fun _ _ => True, hide := Job.onCurve }

/-- Everything but the Poly1305 registers other than PSTATE. -/
def Observer.butPoly : Observer :=
  { poly := fun p q => p.pstate = q.pstate, curve := Eq, hide := fun j => !j.onCurve }

theorem sameButCurve_iff {s t : State} : sameButCurve s t ↔ Observer.butCurve.Same s t :=
  ⟨fun ⟨hp, hf, he, hport⟩ => ⟨hp, trivial, hf, he, hport⟩, fun h => ⟨h.poly, h.flight, h.engine, h.port⟩⟩

theorem sameButPoly_iff {s t : State} : sameButPoly s t ↔ Observer.butPoly.Same s t :=
  ⟨fun ⟨hc, hp, hf, he, hport⟩ => ⟨hp, hc, hf, he, hport⟩, fun h => ⟨h.curve, h.poly, h.flight, h.engine, h.port⟩⟩

theorem Observer.butCurve_closed : butCurve.Closed where
  poly_refl _ := rfl
  curve_refl _ := trivial
  pstate h := congrArg _ h
  pkey _ _ h := by rw [h]; rfl
  pdata _ _ h := by rw [h]; rfl
  xscalar _ _ _ := trivial
  xu _ _ _ := trivial
  fa _ _ _ := trivial
  fb _ _ _ := trivial
  snapshot {p q c d j k} hp _ hj hk hi := by
    obtain rfl : p = q := hp
    cases ho : j.onCurve with
    | true => exact .of_hidden hi ho ((Job.onCurve_congr hi).symm.trans ho)
    | false => rw [SnapshotSound.eq_of_poly ho hi hj hk]; exact ⟨rfl, rfl⟩
  effect {s t j k} h hp _ := by
    refine ⟨?_, trivial⟩
    obtain ⟨hj, hk⟩ | rfl := h.cases
    · rw [effectOf_poly_of_onCurve hj, effectOf_poly_of_onCurve hk]
      exact hp
    · exact effectOf_poly_congr j hp

/-- PSTATE after a completion depends on the command and on PSTATE alone (10_state.md R40). -/
theorem effectOf_pstate_congr {j k : Job} {s t : State} (hi : j.instr = k.instr)
    (hp : s.poly.pstate = t.poly.pstate) : (effectOf j s).poly.pstate = (effectOf k t).poly.pstate := by
  by_cases hinit : j.instr = .pInit
  · rw [effectOf_pstate_of_pInit hinit, effectOf_pstate_of_pInit (hi ▸ hinit)]
  by_cases hfin : j.instr = .pFinish
  · rw [effectOf_pstate_of_pFinish hfin, effectOf_pstate_of_pFinish (hi ▸ hfin)]
  rw [(effectOf_context hinit hfin).1, (effectOf_context (hi ▸ hinit) (hi ▸ hfin)).1, hp]

theorem Observer.butPoly_closed : butPoly.Closed where
  poly_refl _ := rfl
  curve_refl _ := rfl
  pstate h := h
  pkey _ _ h := h
  pdata _ _ h := h
  xscalar _ _ h := by rw [h]; rfl
  xu _ _ h := by rw [h]; rfl
  fa _ _ h := by rw [h]; rfl
  fb _ _ h := by rw [h]; rfl
  snapshot {p q c d j k} _ hc hj hk hi := by
    obtain rfl : c = d := hc
    cases ho : j.onCurve with
    | true => rw [SnapshotSound.eq_of_curve ho hi hj hk]; exact ⟨rfl, rfl⟩
    | false =>
      have hk' : k.onCurve = false := (Job.onCurve_congr hi).symm.trans ho
      exact .of_hidden hi (by simp [butPoly, ho]) (by simp [butPoly, hk'])
  effect {s t j k} h hp hc := by
    refine ⟨effectOf_pstate_congr h.1 hp, ?_⟩
    obtain ⟨hj, hk⟩ | rfl := h.cases
    · have hj' : j.onCurve = false := by simpa [butPoly] using hj
      have hk' : k.onCurve = false := by simpa [butPoly] using hk
      rw [effectOf_curve_of_onPoly hj', effectOf_curve_of_onPoly hk']
      exact hc
    · exact effectOf_curve_congr j hc

/-- STATUS holds nothing of the curve unit (10_state.md R35). -/
theorem statusWord_eq_of_sameButCurve {s t : State} (h : sameButCurve s t) : statusWord s = statusWord t := by
  have hsame := sameButCurve_iff.mp h
  obtain ⟨herr, herrs, hovr, -⟩ := hsame.engine_eq
  simp only [statusWord, h.1, herr, herrs, hovr, hsame.isBusy_eq]

/-- Settles O59: a step keeps the view of everything but the curve registers, and STATUS and irq are in that view. -/
theorem curveValuesStayInCurveUnit : Obligations.CurveValuesStayInCurveUnit := by
  intro s s' t h hs
  obtain ⟨t', hs', ht⟩ := (sameButCurve_iff.mp h).step Observer.butCurve_closed t hs
  have hsame := sameButCurve_iff.mpr ht
  exact ⟨t', hs', hsame, statusWord_eq_of_sameButCurve hsame, ht.irqLine_eq⟩

/-- Settles O60: a step keeps the view of everything but the Poly1305 registers, and irq is in that view. -/
theorem polyValuesStayInPolyUnit : Obligations.PolyValuesStayInPolyUnit := by
  intro s s' t h hs
  obtain ⟨t', hs', ht⟩ := (sameButPoly_iff.mp h).step Observer.butPoly_closed t hs
  exact ⟨t', hs', sameButPoly_iff.mpr ht, ht.irqLine_eq⟩

end Sys2Proof.Machine
end

section
/-! PROOFS (20_memory.md). The register window: the offsets of each register, when a transaction is a bus error, and
what a word read and a word write do, idle or busy. -/

namespace Sys2Proof.Machine

/-! ### The offsets of a register (10_state.md R31) -/

/-- The one row of the register map that holds `r`. -/
def Reg.row (r : Reg) : MapRow := (registerMap.find? fun row => row.reg == r).getD ⟨0, .id, 0, .ro⟩

theorem Reg.row_mem (r : Reg) : r.row ∈ registerMap := by cases r <;> decide

@[simp] theorem Reg.row_reg (r : Reg) : r.row.reg = r := by cases r <;> rfl

/-- The map has one row for each register. -/
theorem eq_row_of_mem {row : MapRow} (hm : row ∈ registerMap) : row = row.reg.row := by revert row; decide

theorem regOffset_eq (r : Reg) (k : Nat) : regOffset r k = BitVec.ofNat 9 (r.row.offset + 4 * k) := by
  cases r <;> rfl

/-- Every word of a register is selected at its offset. -/
theorem selectReg_regOffset {r : Reg} {k : Nat} (hk : k < r.row.words) :
    selectReg (regOffset r k) .word = some (r.row, k) := by
  rw [regOffset_eq, selectReg_of_row r.row r.row_mem k hk]

/-- The offsets of a row's words. -/
abbrev MapRow.covers (row : MapRow) (o : Nat) : Prop := row.offset ≤ o ∧ o < row.offset + 4 * row.words

/-- No offset lies in two rows of the map. -/
theorem row_eq_of_covers {a b : MapRow} {o : Nat} (ha : a ∈ registerMap) (hb : b ∈ registerMap) (hao : a.covers o)
    (hbo : b.covers o) : a = b :=
  List.Pairwise.forall_of_forall_of_flip (R := fun a b : MapRow => a.covers o → b.covers o → a = b)
    (fun _ _ _ _ => rfl) (registerMap_disjoint.imp fun h ha hb => by omega)
    (registerMap_disjoint.imp fun h hb ha => by omega) ha hb hao hbo

/-- A selected register by its range of offsets. -/
theorem selected_reg_eq_iff {off : BitVec 9} {size : AccessSize} {row : MapRow} {k : Nat}
    (h : selectReg off size = some (row, k)) (r : Reg) : row.reg = r ↔ r.row.covers off.toNat := by
  obtain ⟨-, hm, hk, hoff⟩ := selectReg_spec h
  have hrow : row.covers off.toNat := by omega
  constructor
  · rintro rfl
    rwa [← eq_row_of_mem hm]
  · intro hr
    rw [row_eq_of_covers hm r.row_mem hrow hr, r.row_reg]

/-! ### Bus errors (20_memory.md R105, 60_exceptions.md R404) -/

/-- An issued word always leaves a next state (30_encoding.md R164). -/
theorem exists_issueWord (w : Word) (s : State) : ∃ t, issueWord w s = .next t := by
  have hexec : ∀ i, ∃ t, exec i s = .next t := fun i =>
    let ⟨t, ht, _⟩ := exec_cases i s
    ⟨t, ht⟩
  unfold issueWord
  split
  · exact hexec _
  · exact hexec _
  · exact ⟨_, rfl⟩

/-- A write to a defined register always leaves a next state. -/
theorem exists_writeReg (r : Reg) (k : Nat) (w : Word) (s : State) : ∃ t, writeReg r k w s = .next t := by
  cases r
  case cmd => exact exists_issueWord w s
  all_goals exact ⟨_, rfl⟩

/-- A transaction that selects nothing is a bus error, read or write. -/
theorem runningEvent_of_selectReg_none {t : Transaction} (h : selectReg t.target.1 t.target.2 = none) (s : State) :
    runningEvent (.bus t) s = .fault (.busError t.target.1) := by
  cases t with
  | read off size =>
    have hnone : selectReg off size = none := h
    simp [runningEvent, busRead, hnone, Transaction.target]
  | write off size w =>
    have hnone : selectReg off size = none := h
    simp [runningEvent, busWrite, hnone, Transaction.target]

/-- A transaction that selects a word of a register leaves a next state, read or write. -/
theorem exists_runningEvent_of_selectReg {t : Transaction} {row : MapRow} {k : Nat}
    (h : selectReg t.target.1 t.target.2 = some (row, k)) (s : State) : ∃ u, runningEvent (.bus t) s = .next u := by
  cases t with
  | read off size =>
    have hsome : selectReg off size = some (row, k) := h
    simp only [runningEvent, busRead, hsome]
    split <;> exact ⟨_, rfl⟩
  | write off size w =>
    have hsome : selectReg off size = some (row, k) := h
    simp only [runningEvent, busWrite, hsome]
    exact exists_writeReg row.reg k w _

theorem step_facingEvent (e : PortEvent) (rest : List PortEvent) (s : State) :
    step (facingEvent e rest s) = runningEvent e (takeEvent (facingEvent e rest s)) := rfl

/-- Settles O6: a malformed transaction is one that selects no word of a register. -/
theorem busErrorExactlyOnMalformed : Obligations.BusErrorExactlyOnMalformed := by
  intro s t rest
  rw [step_facingEvent]
  refine ⟨fun hm => ?_, fun hm => ?_⟩
  · exact runningEvent_of_selectReg_none ((selectReg_eq_none_iff ..).mpr hm) _
  · have hsel : selectReg t.target.1 t.target.2 ≠ none := by rw [Ne, selectReg_eq_none_iff, hm]; decide
    obtain ⟨⟨row, k⟩, hrow⟩ := Option.ne_none_iff_exists'.mp hsel
    exact exists_runningEvent_of_selectReg hrow _

/-! ### Byte lanes (20_memory.md R102) -/

/-- Settles O8, from the byte and word lemmas of Laws/Bytes.lean. -/
theorem byteLanesLittleEndian : Obligations.ByteLanesLittleEndian := by
  intro n x v
  have hle : leNat (bytesOf x (4 * n)) = x.toNat := leNat_bytesOf_of_le x (4 * n) (by omega)
  refine ⟨fun k j _ hj => byteAt_wordOf x k j hj, fun k i _ hi => byteAt_setWordOf x k i v (by omega), ?_, hle⟩
  rw [hle, toNat_eq_sum_wordOf]

/-! ### Word reads (20_memory.md R106, R109) -/

section Reads

variable {s : State}

theorem isOpenRead_of_idle (hb : isBusy s = false) (r : Reg) : isOpenRead r s = false := by
  simp [isOpenRead, isBusy_eq_false_iff.mp hb]

theorem isOpenRead_of_inflight {f : InFlight} (hf : s.engine.inflight = some f) (r : Reg) :
    isOpenRead r s = readsAny f.job.instr r := by
  simp [isOpenRead, hf]

/-- A read that is no open draw answers the exact word and changes nothing else. -/
theorem step_facing_exactRead {off : BitVec 9} {row : MapRow} {k : Nat} (hs : selectReg off .word = some (row, k))
    (ho : isOpenRead row.reg s = false) (rest : List PortEvent) :
    step (facingEvent (.bus (.read off .word)) rest s) =
      .next { s with port := portAnswered (.data (readReg row.reg k s)) rest s.port } := by
  have hread : readReg row.reg k (facingEvent (.bus (.read off .word)) rest s) = readReg row.reg k s := by
    cases row.reg <;> rfl
  rw [step_of_read (facingEvent_inReset ..) (nextEvent_facingEvent ..) hs ho, hread]
  rfl

/-- An open read answers the next draw and changes no register. -/
theorem step_facing_openRead {off : BitVec 9} {row : MapRow} {k : Nat} (hs : selectReg off .word = some (row, k))
    (ho : isOpenRead row.reg s = true) (rest : List PortEvent) :
    step (facingEvent (.bus (.read off .word)) rest s) =
      .next { s with port := { portAnswered (.data (Config.freeWord s.port.draws)) rest s.port with
        draws := s.port.draws + 1 } } := by
  have ho' : isOpenRead row.reg (takeEvent (facingEvent (.bus (.read off .word)) rest s)) = true := ho
  rw [step_facingEvent]
  simp only [runningEvent, busRead, hs, ho', if_true]
  rfl

/-- A read of word k of a register while nothing is in flight. -/
theorem step_facing_idleRead (hb : isBusy s = false) {r : Reg} {k : Nat} (hk : k < r.row.words) {v : Word}
    (hv : readReg r k s = v) (rest : List PortEvent) :
    step (facingEvent (.bus (.read (regOffset r k) .word)) rest s) =
      .next { s with port := portAnswered (.data v) rest s.port } := by
  rw [step_facing_exactRead (selectReg_regOffset hk) (isOpenRead_of_idle hb _), r.row_reg, hv]

/-- Bits [32k+31:32k] of a register, as a number (20_memory.md R103). -/
theorem wordOf_eq_ofNat {w : Nat} (x : BitVec w) (k : Nat) : wordOf x k = BitVec.ofNat 32 (x.toNat / 2 ^ (32 * k)) := by
  rw [wordOf, BitVec.extractLsb', Nat.shiftRight_eq_div_pow]

theorem intstatWord_eq (s : State) : intstatWord s = if s.engine.done then 1 else 0 := by
  unfold intstatWord
  cases s.engine.done <;> rfl

end Reads

/-- Settles O9, register by register of the map. -/
theorem readAnswersRegister : Obligations.ReadAnswersRegister := by
  intro s rest hb
  have read (r : Reg) (k : Nat) (hk : k < r.row.words) (v : Word) (hv : readReg r k s = v) :=
    step_facing_idleRead hb hk hv rest
  exact ⟨read .id 0 Nat.one_pos _ rfl, read .cmd 0 Nat.one_pos _ rfl, read .status 0 Nat.one_pos _ rfl,
    read .ctrl 0 Nat.one_pos _ (ctrlWord_eq s), read .intstat 0 Nat.one_pos _ (intstatWord_eq s),
    fun k hk => read .pkey k hk _ rfl, fun k hk => read .pdata k hk _ rfl, fun k hk => read .ptag k hk _ rfl,
    fun k hk => read .pacc k hk _ (wordOf_eq_ofNat ..), fun k hk => read .pr k hk _ (wordOf_eq_ofNat ..),
    fun k hk => read .xscalar k hk _ rfl, fun k hk => read .xu k hk _ rfl, fun k hk => read .xout k hk _ rfl,
    fun k hk => read .fa k hk _ rfl, fun k hk => read .fb k hk _ rfl, fun k hk => read .fr k hk _ rfl⟩

/-- Settles O10: the registers a command may write, as `readsAny` lists them, are the offset ranges of the table. -/
theorem readWhileBusy : Obligations.ReadWhileBusy := by
  intro s f off row k rest hf hs o tag acc mult isOpen
  have hreg : ∀ r : Reg, row.reg = r ↔ r.row.covers o := selected_reg_eq_iff hs
  have htag : row.reg = .ptag ↔ tag := hreg .ptag
  have hacc : row.reg = .pacc ↔ acc := hreg .pacc
  have hmult : row.reg = .pr ↔ mult := hreg .pr
  have hopen : isOpenRead row.reg s = true ↔ isOpen := by
    rw [isOpenRead_of_inflight hf]
    obtain ⟨job, remaining⟩ := f
    cases job
    case pInit => simp [readsAny, Job.instr, isOpen, hacc, hmult]
    case pAdd => simp [readsAny, Job.instr, isOpen, hacc]
    case pFinish => simp [readsAny, Job.instr, isOpen, htag, hacc, hmult, or_assoc]
    case xBase | xMul => exact beq_iff_eq.trans (hreg .xout)
    case fAdd | fSub | fMul | fSqr | fInv => exact beq_iff_eq.trans (hreg .fr)
  refine ⟨fun h => step_facing_openRead hs (hopen.mpr h) rest, fun h => step_facing_exactRead hs ?_ rest⟩
  exact Bool.eq_false_iff.mpr fun ho => h (hopen.mp ho)

/-! ### Word writes (20_memory.md R107) -/

/-- A write to an operand register while nothing is in flight: its update, and nothing else. -/
theorem step_facing_operandWrite {s : State} (hb : isBusy s = false) {r : Reg} {k : Nat} (hk : k < r.row.words)
    {w : Word} {update : State → State} (hw : ∀ t, writeReg r k w t = .next (unlessBusy update t))
    (rest : List PortEvent) :
    step (facingEvent (.bus (.write (regOffset r k) .word w)) rest s) =
      .next (update { s with port := portAnswered .ok rest s.port }) := by
  rw [step_of_write (facingEvent_inReset ..) (nextEvent_facingEvent ..) (selectReg_regOffset hk), answered_facingEvent,
    r.row_reg, hw, unlessBusy_of_idle (s := { s with port := portAnswered .ok rest s.port }) hb]

/-- Settles O11, operand register by operand register. -/
theorem operandWriteSetsOneWord : Obligations.OperandWriteSetsOneWord := by
  intro s w rest hb
  have write (r : Reg) (k : Nat) (hk : k < r.row.words) (update : State → State)
      (hw : ∀ t, writeReg r k w t = .next (unlessBusy update t)) := step_facing_operandWrite hb hk hw rest
  exact ⟨fun k hk => write .pkey k hk (writePKey k w) fun _ => rfl,
    fun k hk => write .pdata k hk (writePData k w) fun _ => rfl,
    fun k hk => write .xscalar k hk (writeXScalar k w) fun _ => rfl,
    fun k hk => write .xu k hk (writeXU k w) fun _ => rfl,
    fun k hk => write .fa k hk (writeFA k w) fun _ => rfl,
    fun k hk => write .fb k hk (writeFB k w) fun _ => rfl⟩

end Sys2Proof.Machine
end

section
/-! PROOFS (20_memory.md). The platform's address decoder in front of the register window (R100, R101, R110). -/

namespace Sys2Proof.Machine

theorem base_mod : Config.base % 0x200 = 0 := Nat.mul_mod_right ..

/-- The window is one aligned block of 0x200 bytes. -/
theorem in_window_iff (addr : Nat) :
    (Config.base ≤ addr ∧ addr < Config.base + 0x200) ↔ addr / 0x200 = Config.base / 0x200 := by
  have hbase := base_mod
  omega

/-- The offset within the window is the address's low nine bits (20_memory.md R101). -/
theorem windowOffset_eq_some_iff (addr : Nat) (off : BitVec 9) :
    windowOffset addr = some off ↔ addr / 0x200 = Config.base / 0x200 ∧ off.toNat = addr % 0x200 := by
  unfold windowOffset
  rw [← in_window_iff]
  split
  case isFalse hout => simp [hout]
  case isTrue hin =>
    have hbase := base_mod
    have hlow : (BitVec.ofNat 9 (addr - Config.base)).toNat = addr % 0x200 := by
      rw [BitVec.toNat_ofNat]
      omega
    rw [Option.some.injEq, ← BitVec.toNat_inj, hlow, eq_comm]
    exact (and_iff_right hin).symm

theorem windowOffset_eq_none_iff (addr : Nat) :
    windowOffset addr = none ↔ addr < Config.base ∨ Config.base + 0x1FF < addr := by
  simp only [windowOffset, ite_eq_right_iff, reduceCtorEq, imp_false]
  omega

/-- Settles O16: the decoder by `windowOffset_eq_some_iff` and `windowOffset_eq_none_iff`. -/
theorem windowDecodesAddresses : Obligations.WindowDecodesAddresses := by
  refine ⟨base_mod, windowOffset_eq_some_iff, fun s addr size w => ⟨fun off hin => ?_, fun hout => ?_⟩⟩
  · simp only [hostRead, hostWrite, hin]
    exact ⟨rfl, rfl⟩
  · have hnone := (windowOffset_eq_none_iff addr).mpr hout
    simp only [hostRead, hostWrite, hnone, and_self]

end Sys2Proof.Machine
end

section
/-! PROOFS (30_encoding.md R140 to R147). Decode and encode are inverse on the legal command words, and each outcome of
the decoder in terms of the word's three fields. -/

namespace Sys2Proof

/-! ### Decode and encode -/

/-- The fields of an encoded instruction, for every instruction. -/
theorem encodeFields : (i : Instr) → Laws.EncodeFields.Statement i
  | .nop => Laws.EncodeFields.nop
  | .pInit => Laws.EncodeFields.pInit
  | .pAdd len => Laws.EncodeFields.pAdd len
  | .pFinish => Laws.EncodeFields.pFinish
  | .xBase => Laws.EncodeFields.xBase
  | .xMul => Laws.EncodeFields.xMul
  | .fAdd => Laws.EncodeFields.fAdd
  | .fSub => Laws.EncodeFields.fSub
  | .fMul => Laws.EncodeFields.fMul
  | .fSqr => Laws.EncodeFields.fSqr
  | .fInv => Laws.EncodeFields.fInv
  | .clrErr => Laws.EncodeFields.clrErr
  | .sReset => Laws.EncodeFields.sReset

/-- Only P_ADD carries a LEN (30_encoding.md R141). -/
theorem opcode_eq_pAdd_or_lenOf_eq_zero (i : Instr) : opcode i = 2 ∨ lenOf i = 0 := by
  cases i
  case pAdd => exact .inl rfl
  all_goals exact .inr rfl

/-- A legal command word decodes to its instruction. -/
theorem decode_encode {i : Instr} (h : i.wellFormed = true) : decode (encode i) = .cmd i := by
  obtain ⟨hop, hlen, hrsv⟩ := encodeFields i
  rw [decode_eq_cmd_iff, hop, hlen]
  exact ⟨instrOfOpcode_opcode i, hrsv, opcode_eq_pAdd_or_lenOf_eq_zero i,
    fun hlong => absurd hlong.2 ((wellFormed_iff i).mp h).not_gt⟩

/-- The decoder answers `Cmd` for well-formed instructions only. -/
theorem wellFormed_of_decode {w : Word} {i : Instr} (h : decode w = .cmd i) : i.wellFormed = true := by
  obtain ⟨hop, -, -, hshort⟩ := (decode_eq_cmd_iff w i).mp h
  rw [wellFormed_iff, (instrOfOpcode_eq_some hop).2]
  split
  case isTrue h2 => exact Nat.le_of_not_lt fun hlong => hshort ⟨h2, hlong⟩
  case isFalse => exact Nat.zero_le 16

/-- Settles O1: `decode_encode` and its converse. -/
theorem decodeEncodeAgree : Obligations.DecodeEncodeAgree := by
  intro w i
  constructor
  · exact fun h => ⟨wellFormed_of_decode h, (Machine.eq_encode_of_decode h).symm⟩
  · rintro ⟨hwf, rfl⟩
    exact decode_encode hwf

/-! ### The outcomes of the decoder (30_encoding.md R145) -/

theorem decode_of_undefined {w : Word} (h : instrOfOpcode (opField w) (lenField w) = none) : decode w = .illegal := by
  simp [decode, h]

/-- The checks on a word of a defined opcode, in their order. -/
theorem decode_of_defined {w : Word} {i : Instr} (h : instrOfOpcode (opField w) (lenField w) = some i) :
    decode w =
      if rsvField w ≠ 0 then .illegal
      else if opField w ≠ 2 ∧ lenField w ≠ 0 then .illegal
      else if opField w = 2 ∧ 16 < (lenField w).toNat then .badLen (lenField w)
      else .cmd i := by
  rw [decode, h]
  rfl

/-- When a word decodes to nothing, check by check. -/
theorem decode_eq_illegal_iff (w : Word) :
    decode w = .illegal ↔
      instrOfOpcode (opField w) (lenField w) = none ∨ rsvField w ≠ 0 ∨ (opField w ≠ 2 ∧ lenField w ≠ 0) := by
  cases h : instrOfOpcode (opField w) (lenField w) with
  | none => simp [decode_of_undefined h]
  | some i =>
    rw [decode_of_defined h, or_iff_right (Option.some_ne_none i)]
    split
    case isTrue hrsv => exact iff_of_true rfl (.inl hrsv)
    case isFalse hrsv =>
      rw [or_iff_right hrsv]
      split
      case isTrue hlen => exact iff_of_true rfl hlen
      case isFalse hlen => exact iff_of_false (by split <;> exact Decoded.noConfusion) hlen

/-- When a word is a P_ADD whose LEN is out of range. -/
theorem decode_eq_badLen_iff (w : Word) (len : BitVec 5) :
    decode w = .badLen len ↔ opField w = 2 ∧ lenField w = len ∧ 16 < len.toNat ∧ rsvField w = 0 := by
  constructor
  · intro h
    cases hi : instrOfOpcode (opField w) (lenField w) with
    | none => rw [decode_of_undefined hi] at h; cases h
    | some i =>
      rw [decode_of_defined hi] at h
      split_ifs at h with hrsv hlen hlong
      cases h
      exact ⟨hlong.1, rfl, hlong.2, not_not.mp hrsv⟩
  · rintro ⟨hop, rfl, hlong, hrsv⟩
    have hdefined : instrOfOpcode (opField w) (lenField w) = some (.pAdd (lenField w)) := by rw [hop]; rfl
    simp [decode_of_defined hdefined, hop, hrsv, hlong]

theorem opField_eq_iff (w : Word) (op : BitVec 8) : opField w = op ↔ w.toNat % 2 ^ 8 = op.toNat := by
  rw [← opField_toNat, BitVec.toNat_inj]

theorem lenField_eq_iff (w : Word) (len : BitVec 5) : lenField w = len ↔ w.toNat / 2 ^ 8 % 2 ^ 5 = len.toNat := by
  rw [← lenField_toNat, BitVec.toNat_inj]

theorem rsvField_eq_zero_iff (w : Word) : rsvField w = 0 ↔ w.toNat / 2 ^ 13 = 0 := by
  rw [← rsvField_toNat, ← BitVec.toNat_inj]
  rfl

/-- Settles O2: each outcome by its fields, and the fields as numbers. -/
theorem decodeFollowsFields : Obligations.DecodeFollowsFields := by
  intro w
  refine ⟨?_, fun len => ?_, fun i h => ?_⟩
  · rw [decode_eq_illegal_iff, instrOfOpcode_eq_none_iff, opField_toNat, Ne, rsvField_eq_zero_iff, Ne, opField_eq_iff,
      Ne, lenField_eq_iff]
    rfl
  · rw [decode_eq_badLen_iff, opField_eq_iff, lenField_eq_iff, rsvField_eq_zero_iff]
    rfl
  · obtain ⟨hop, hlen, -⟩ := encodeFields i
    rw [← Machine.eq_encode_of_decode h] at hop hlen
    exact ⟨((opField_eq_iff w _).mp hop).symm, ((lenField_eq_iff w _).mp hlen).symm⟩

/-- Settles O3, by running the decoder. -/
theorem sampleWordsDecode : Obligations.SampleWordsDecode := by
  unfold Obligations.SampleWordsDecode
  decide

end Sys2Proof
end

section
/-! PROOFS (30_encoding.md R160 to R163). A command word at the head of the queue runs its instruction, and a command in
flight ends by its completion or by hardware reset only. -/

namespace Sys2Proof.Machine

/-! ### Issue (30_encoding.md R160) -/

theorem selectReg_cmd : selectReg cmdOffset .word = some (⟨0x004, .cmd, 1, .wo⟩, 0) := by decide

/-- A word that names an instruction, BadLen words among them, runs it. -/
theorem issueWord_of_instr? {w : Word} {i : Instr} (h : (decode w).instr? = some i) (s : State) :
    issueWord w s = exec i s := by
  unfold issueWord
  cases hd : decode w <;> rw [hd] at h <;> cases h <;> rfl

/-- Settles O4: a write to CMD issues its word, whatever is in flight. -/
theorem stepRunsDecodedCommand : Obligations.StepRunsDecodedCommand := by
  intro s w rest i h
  rw [step_of_write (facingEvent_inReset ..) (nextEvent_facingEvent s (cmdWrite w) rest) selectReg_cmd,
    answered_facingEvent]
  exact issueWord_of_instr? h _

/-! ### Completion (30_encoding.md R162, R163) -/

/-- Settles O48: elapsing time is a completion. -/
theorem elapsedTimeCompletes : Obligations.ElapsedTimeCompletes := by
  intro s f hf hr he
  have hc : completesNext s f := ⟨hr, hf, .inl he⟩
  have hstep := step_of_completesNext hc
  obtain ⟨hpoly, hcurve⟩ := regs_of_completesNext hc hstep
  exact ⟨_, hstep, complete_engine_of_some (s := takeEvent s) hf, hpoly, hcurve, complete_port _⟩

/-- What a step does to the command in flight when it goes on: the same job, with no more cycles left than before. -/
def StaysInFlight (f : InFlight) (t : State) : Prop :=
  ∃ g, t.engine.inflight = some g ∧ g.job = f.job ∧ g.remaining ≤ f.remaining

theorem StaysInFlight.of_kept {f : InFlight} {t : State} (h : t.engine.inflight = some f) : StaysInFlight f t :=
  ⟨f, h, rfl, le_rfl⟩

/-- Settles O50, case by case over what one step can do: a busy core takes no operand and issues nothing. -/
theorem commandIsNeverCancelled : Obligations.CommandIsNeverCancelled := by
  intro s t f hf hs
  have hbusy : isBusy s = true := isBusy_eq_true_iff.mpr ⟨f, hf⟩
  have idle_elim : isBusy s = false → StaysInFlight f t := fun hi => by rw [hbusy] at hi; cases hi
  cases step_cases hs with
  | held hr => exact .inr (.inr (.inr hr))
  | released hr => exact .inr (.inr (.inr hr))
  | asserted _ he => exact .inr (.inr (.inl he))
  | readOpen | readExact | ignored | ctrl | dropped | idled => exact .inl (StaysInFlight.of_kept hf)
  | intstat => exact .inl (StaysInFlight.of_kept (by simpa using hf))
  | wrotePKey _ hi | wrotePData _ hi | wroteXScalar _ hi | wroteXU _ hi | wroteFA _ hi | wroteFB _ hi =>
    exact .inl (idle_elim hi)
  | issued _ _ _ hi | illegal _ hi => exact .inl (idle_elim hi.2.1)
  | ticked _ _ g hg =>
    obtain rfl : g = f := Option.some.inj (hg.symm.trans hf)
    exact .inl ⟨_, rfl, rfl, Nat.sub_le ..⟩
  | completed g hc =>
    obtain rfl : g = f := Option.some.inj (hc.2.1.symm.trans hf)
    exact .inr (.inl ⟨hc, rfl⟩)

end Sys2Proof.Machine
end

section
/-! PROOFS (40_poly1305.md R203 to R216). Incremental absorption: the context after P_INIT and any P_ADDs stands for the
message absorbed so far, and P_FINISH makes that message's MAC. -/

namespace Sys2Proof.Machine

/-! ### Blocks of a message (40_poly1305.md R207) -/

/-- The message's bytes after its full blocks. -/
def messageTail (m : List Byte) : List Byte := m.drop (16 * (m.length / 16))

@[simp] theorem length_messageTail (m : List Byte) : (messageTail m).length = m.length % 16 := by
  rw [messageTail, List.length_drop]
  omega

@[simp] theorem macBlocks_zero (r : Nat) (m : List Byte) : macBlocks r m 0 = 0 := by simp [macBlocks]

theorem macBlocks_succ (r : Nat) (m : List Byte) (q : Nat) :
    macBlocks r m (q + 1) = polyBlock (macBlocks r m q) r (fullBlock ((m.drop (16 * q)).take 16)) := by
  rw [macBlocks, macBlocks, List.range_succ, List.foldl_append, List.foldl_cons, List.foldl_nil]

/-- Bytes after the first `q` full blocks do not matter to them. -/
theorem macBlocks_append (r : Nat) (m c : List Byte) {q : Nat} (hq : 16 * q ≤ m.length) :
    macBlocks r (m ++ c) q = macBlocks r m q := by
  induction q with
  | zero => simp
  | succ q ih =>
    have hblock : ((m ++ c).drop (16 * q)).take 16 = (m.drop (16 * q)).take 16 := by
      rw [List.drop_append_of_le_length (by omega), List.take_append_of_le_length (by rw [List.length_drop]; omega)]
    rw [macBlocks_succ, macBlocks_succ, ih (by omega), hblock]

/-- What is left of a longer message after the same blocks. -/
theorem drop_append_messageTail (m c : List Byte) : (m ++ c).drop (16 * (m.length / 16)) = messageTail m ++ c :=
  List.drop_append_of_le_length (by omega)

/-- A chunk that fills the buffer adds one block, a shorter one none. -/
theorem blocks_append {m c : List Byte} (hc : c.length ≤ 16) :
    (m ++ c).length / 16 = m.length / 16 + if 16 ≤ (messageTail m ++ c).length then 1 else 0 := by
  simp only [List.length_append, length_messageTail]
  split <;> omega

/-- P_ADD leaves in the buffer what the longer message has after its full blocks. -/
theorem addRest_messageTail {m c : List Byte} (hc : c.length ≤ 16) :
    addRest (messageTail m ++ c) = messageTail (m ++ c) := by
  rw [messageTail.eq_def (m ++ c), blocks_append hc, addRest]
  split
  · rw [Nat.mul_add, ← List.drop_drop, drop_append_messageTail]
  · exact (drop_append_messageTail m c).symm

/-! ### The context of an absorbed message -/

/-- `ctx` holds the message `m` under `key`: its full blocks in P.H, the rest in P.BUF (40_poly1305.md R212). -/
structure Absorbed (key : BitVec 256) (m : List Byte) (ctx : PolyCtx) : Prop where
  mult : ctx.r = clampR key
  pad : ctx.s = padOf key
  acc : ctx.h.toNat = macBlocks (clampR key).toNat m (m.length / 16)
  len : ctx.bufLen.toNat = m.length % 16
  tail : bytesOf ctx.buf ctx.bufLen.toNat = messageTail m

/-- P_INIT's context holds the empty message. -/
theorem Absorbed.empty (key : BitVec 256) :
    Absorbed key [] { r := clampR key, s := padOf key, h := 0, buf := 0, bufLen := 0 } :=
  ⟨rfl, rfl, (macBlocks_zero ..).symm, rfl, rfl⟩

/-- P.H after a chunk is the accumulator of the longer message. -/
theorem Absorbed.addH {key : BitVec 256} {m c : List Byte} {ctx : PolyCtx} (h : Absorbed key m ctx)
    (hc : c.length ≤ 16) :
    (addH ctx (messageTail m ++ c)).toNat = macBlocks (clampR key).toNat (m ++ c) ((m ++ c).length / 16) := by
  have hfirst := macBlocks_append (clampR key).toNat m c (Nat.mul_div_le m.length 16)
  rw [blocks_append hc, Machine.addH]
  split
  · have hlt := polyBlock_lt ctx.h.toNat ctx.r.toNat (fullBlock ((messageTail m ++ c).take 16))
    rw [BitVec.toNat_ofNat, Nat.mod_eq_of_lt (hlt.trans p1305_lt), macBlocks_succ, drop_append_messageTail, hfirst,
      h.acc, h.mult]
  · exact h.acc.trans hfirst.symm

/-- P_ADD of a chunk of at most 16 bytes appends it to the message. -/
theorem Absorbed.pAdd {key : BitVec 256} {m c : List Byte} {ctx : PolyCtx} (h : Absorbed key m ctx)
    (hc : c.length ≤ 16) {len : BitVec 5} {pdata : BitVec 128} (hdata : bytesOf pdata len.toNat = c) :
    Absorbed key (m ++ c) { ctx with
      h := Machine.addH ctx (addBytes ctx pdata len)
      buf := ofBytes 128 (addRest (addBytes ctx pdata len))
      bufLen := BitVec.ofNat 4 (addRest (addBytes ctx pdata len)).length } := by
  have hbytes : addBytes ctx pdata len = messageTail m ++ c := by rw [addBytes, h.tail, hdata]
  have hlen : (BitVec.ofNat 4 (messageTail (m ++ c)).length).toNat = (m ++ c).length % 16 := by
    rw [BitVec.toNat_ofNat, length_messageTail, Nat.mod_mod]
  rw [hbytes, addRest_messageTail hc]
  refine ⟨h.mult, h.pad, h.addH hc, hlen, ?_⟩
  dsimp only
  rw [hlen, ← length_messageTail, bytesOf_ofBytes _ le_rfl (by rw [length_messageTail]; omega), Nat.sub_self,
    List.replicate_zero, List.append_nil]

/-- P_FINISH makes the MAC of the absorbed message (40_poly1305.md R214). -/
theorem Absorbed.tag {key : BitVec 256} {m : List Byte} {ctx : PolyCtx} (h : Absorbed key m ctx) :
    polyTag (finishH ctx) ctx.s.toNat = polyMac key m := by
  have hempty : ctx.bufLen = 0 ↔ messageTail m = [] := by
    rw [← BitVec.toNat_inj, h.len, ← List.length_eq_zero_iff, length_messageTail]
    rfl
  have hfinish : finishH ctx =
      if messageTail m = [] then macBlocks (clampR key).toNat m (m.length / 16)
      else polyBlock (macBlocks (clampR key).toNat m (m.length / 16)) (clampR key).toNat
        (partialBlock (messageTail m)) := by
    simp only [finishH, hempty, h.tail, h.acc, h.mult]
  rw [hfinish, h.pad]
  rfl

/-! ### Cutting a message into chunks (30_encoding.md R150) -/

/-- The first `n` blocks of 16 bytes, one after another, are the first 16n bytes. -/
theorem flatten_blocks (m : List Byte) (n : Nat) :
    ((List.range n).map fun i => (m.drop (16 * i)).take 16).flatten = m.take (16 * n) := by
  induction n with
  | zero => simp
  | succ n ih => simp [List.range_succ, ih, Nat.mul_add, List.take_add]

theorem flatten_chunks16 (m : List Byte) : (chunks16 m).flatten = m := by
  rw [chunks16, flatten_blocks, List.take_of_length_le (by omega)]

theorem length_le_of_mem_chunks16 {m c : List Byte} (h : c ∈ chunks16 m) : c.length ≤ 16 := by
  obtain ⟨i, -, rfl⟩ := List.mem_map.mp h
  exact List.length_take_le ..

end Sys2Proof.Machine
end

section
/-! PROOFS (30_encoding.md R148 to R151). Host programs as runs: what a program's events leave in the two units, program
by program put together, up to ONETIMEAUTH. -/

namespace Sys2Proof.Machine

/-! ### Programs and what they establish -/

/-- A running core with nothing in flight, about to see exactly these events. -/
structure Ready (es : List PortEvent) (s : State) : Prop where
  idle : isBusy s = false
  running : s.port.inReset = false
  pending : s.port.pending = es

/-- From every ready core whose units satisfy `P`, the events run without a stop to a ready core whose units satisfy
`Q`; what waits behind them still waits. -/
def Leads (es : List PortEvent) (P Q : PolyUnit → CurveUnit → Prop) : Prop :=
  ∀ s rest, Ready (es ++ rest) s → P s.poly s.curve →
    ∃ t, runSteps es.length s = .next t ∧ Ready rest t ∧ Q t.poly t.curve

section Programs

variable {P Q R : PolyUnit → CurveUnit → Prop} {es fs : List PortEvent}

theorem Leads.append (h : Leads es P Q) (h' : Leads fs Q R) : Leads (es ++ fs) P R := by
  intro s rest hs hP
  rw [List.append_assoc] at hs
  obtain ⟨t, hrun, ht, hQ⟩ := h s _ hs hP
  obtain ⟨u, hrun', hu, hR⟩ := h' t rest ht hQ
  exact ⟨u, by rw [List.length_append, runSteps_add hrun, hrun'], hu, hR⟩

theorem Leads.nil (h : ∀ p c, P p c → Q p c) : Leads [] P Q :=
  fun s _ hs hP => ⟨s, rfl, hs, h _ _ hP⟩

theorem Leads.weaken (h : Leads es P Q) (hQ : ∀ p c, Q p c → R p c) : Leads es P R := by
  simpa using h.append (.nil hQ)

end Programs

theorem Ready.eq_facingEvent {e : PortEvent} {rest : List PortEvent} {s : State} (h : Ready (e :: rest) s) :
    s = facingEvent e rest s :=
  State.eq_of_parts rfl rfl rfl (by
    obtain ⟨-, hr, hp⟩ := h
    rw [facingEvent, ← hr, ← hp])

/-- A word read next, while nothing is in flight, answers the register's word (20_memory.md R106). -/
theorem Ready.step_read {r : Reg} {k : Nat} {rest : List PortEvent} {s : State} (hk : k < r.row.words)
    (h : Ready (.bus (.read (regOffset r k) .word) :: rest) s) :
    step s = .next { s with port := portAnswered (.data (readReg r k s)) rest s.port } :=
  (congrArg step h.eq_facingEvent).trans (step_facing_idleRead h.idle hk rfl rest)

/-! ### Writing a whole register (20_memory.md R102) -/

/-- An operand register of the Poly1305 unit: how it is read, how it is set, and that the host writes it. -/
structure PolyOperand (r : Reg) (w : Nat) where
  get : PolyUnit → BitVec w
  set : BitVec w → PolyUnit → PolyUnit
  get_set : ∀ x p, get (set x p) = x
  write : ∀ k v s, writeReg r k v s =
    .next (unlessBusy (fun s => { s with poly := set (setWordOf (get s.poly) k v) s.poly }) s)

/-- PKEY (10_state.md R45). -/
def pkeyOperand : PolyOperand .pkey 256 where
  get p := p.pkey
  set x p := { p with pkey := x }
  get_set _ _ := rfl
  write _ _ _ := rfl

/-- PDATA (10_state.md R46). -/
def pdataOperand : PolyOperand .pdata 128 where
  get p := p.pdata
  set x p := { p with pdata := x }
  get_set _ _ := rfl
  write _ _ _ := rfl

section Operand

variable {r : Reg} {P Q : PolyUnit → CurveUnit → Prop}

theorem Leads.wrWord {w k : Nat} (o : PolyOperand r w) (hk : k < r.row.words) (v : Word)
    (h : ∀ p c, P p c → Q (o.set (setWordOf (o.get p) k v) p) c) : Leads [wrWord r k v] P Q := by
  intro s rest hs hP
  have hstep := (congrArg step hs.eq_facingEvent).trans (step_facing_operandWrite hs.idle hk (o.write k v) rest)
  exact ⟨_, runSteps_succ_of_next hstep, ⟨hs.idle, rfl, rfl⟩, h _ _ hP⟩

/-- A byte of a register after the next word of `x` was written to it. -/
theorem byteAt_setWordOf_wordOf {w n i : Nat} {x y : BitVec w} (hi : i < 4 * (n + 1)) (hw : 32 * (n + 1) ≤ w)
    (h : ∀ i, i < 4 * n → byteAt y i = byteAt x i) : byteAt (setWordOf y n (wordOf x n)) i = byteAt x i := by
  rw [byteAt_setWordOf y n i _ (by omega)]
  split
  case isTrue hn =>
    rw [byteAt_wordOf x n _ (Nat.mod_lt i (by norm_num)), ← hn, Nat.div_add_mod]
  case isFalse hn => exact h i (by omega)

/-- The first `n` words written, word 0 first, make the first 4n bytes. -/
theorem Leads.wrWords {w : Nat} (o : PolyOperand r w) (hP : ∀ x p c, P p c → P (o.set x p) c) (x : BitVec w) (n : Nat)
    (hn : n ≤ r.row.words) (hw : 32 * n ≤ w) :
    Leads (wrReg r n x) P fun p c => P p c ∧ ∀ i, i < 4 * n → byteAt (o.get p) i = byteAt x i := by
  induction n with
  | zero => exact .nil fun p c h => ⟨h, fun i hi => absurd hi (Nat.not_lt_zero i)⟩
  | succ n ih =>
    have hsplit : wrReg r (n + 1) x = wrReg r n x ++ [Machine.wrWord r n (wordOf x n)] := by
      simp [wrReg, List.range_succ]
    rw [hsplit]
    refine (ih (by omega) (by omega)).append (.wrWord o hn _ fun p c h => ⟨hP _ p c h.1, fun i hi => ?_⟩)
    rw [o.get_set]
    exact byteAt_setWordOf_wordOf hi hw h.2

/-- `wr REG, x` makes the register `x` and keeps what does not speak of it. -/
theorem Leads.wrReg {b : Nat} (o : PolyOperand r (8 * b)) (hP : ∀ x p c, P p c → P (o.set x p) c)
    (x : BitVec (8 * b)) (hb : b = 4 * r.row.words) :
    Leads (wrReg r r.row.words x) P fun p c => P p c ∧ o.get p = x :=
  (Leads.wrWords o hP x _ le_rfl (by omega)).weaken fun p c h =>
    ⟨h.1, eq_of_byteAt_eq fun i hi => h.2 i (by omega)⟩

end Operand

/-! ### A command and the wait for it (30_encoding.md R148) -/

/-- With a command in flight, `wait` completes it and finds the core idle (30_encoding.md R163). -/
theorem runSteps_waitIdle {s : State} {f : InFlight} {rest : List PortEvent} (hf : s.engine.inflight = some f)
    (hr : s.port.inReset = false) (hp : s.port.pending = waitIdle ++ rest) :
    ∃ t, runSteps 2 s = .next t ∧ Ready rest t ∧ t.poly = (effectOf f.job s).poly ∧
      t.curve = (effectOf f.job s).curve := by
  have hnext : nextEvent s = .elapse := by rw [nextEvent, hp]; rfl
  obtain ⟨t, hstep, hengine, hpoly, hcurve, hport⟩ := elapsedTimeCompletes s f hf hr hnext
  have hidle : isBusy t = false := by rw [isBusy_eq_false_iff, hengine]; rfl
  have hready : Ready (.bus (.read (regOffset .status 0) .word) :: rest) t :=
    ⟨hidle, by rw [hport]; exact hr, by rw [hport, hp]; rfl⟩
  have hread := hready.step_read Nat.one_pos
  exact ⟨_, (runSteps_succ_of_next hstep).trans (runSteps_succ_of_next hread), ⟨hidle, rfl, rfl⟩, hpoly, hcurve⟩

/-- `cmd MNEMONIC ; wait` applies the effect of an accepted command. -/
theorem Leads.command {P Q : PolyUnit → CurveUnit → Prop} {i : Instr} (hi : i.wellFormed = true)
    (h : ∀ s, isBusy s = false → P s.poly s.curve →
      ∃ j, exec i s = .next (accept j s) ∧ Q (effectOf j s).poly (effectOf j s).curve) :
    Leads ([cmd i] ++ waitIdle) P Q := by
  intro s rest hs hP
  obtain ⟨j, hexec, hQ⟩ := h { s with port := portAnswered .ok (waitIdle ++ rest) s.port } hs.idle hP
  have hissue : step s = .next (accept j { s with port := portAnswered .ok (waitIdle ++ rest) s.port }) := by
    rw [← hexec, hs.eq_facingEvent]
    exact stepRunsDecodedCommand s (encode i) (waitIdle ++ rest) i (by rw [decode_encode hi]; rfl)
  obtain ⟨t, hwait, ht, hpoly, hcurve⟩ := runSteps_waitIdle (rest := rest) (f := ⟨j, j.latency⟩)
    (s := accept j { s with port := portAnswered .ok (waitIdle ++ rest) s.port }) rfl rfl rfl
  refine ⟨t, (runSteps_succ_of_next hissue).trans hwait, ht, ?_⟩
  rwa [hpoly, hcurve, effectOf_poly_congr j (accept_poly _ j), effectOf_curve_congr j (accept_curve _ j)]

/-! ### The Poly1305 program (30_encoding.md R149 to R151, 40_poly1305.md R216) -/

theorem exec_pInit_of_idle {s : State} (hb : isBusy s = false) :
    exec .pInit s = .next (accept (.pInit s.poly.pkey) s) :=
  congrArg Host.Outcome.next (unlessBusy_of_idle hb)

theorem exec_pAdd_of_active {s : State} (hb : isBusy s = false) (ha : s.poly.pstate = .active) {len : BitVec 5}
    (hl : len.toNat ≤ 16) : exec (.pAdd len) s = .next (accept (.pAdd len s.poly.pdata s.poly.ctx) s) := by
  refine congrArg Host.Outcome.next ?_
  rw [unlessBusy_of_idle hb, if_neg hl.not_gt, whenActive_of_active ha]

theorem exec_pFinish_of_active {s : State} (hb : isBusy s = false) (ha : s.poly.pstate = .active) :
    exec .pFinish s = .next (accept (.pFinish s.poly.ctx) s) :=
  congrArg Host.Outcome.next ((unlessBusy_of_idle hb).trans (whenActive_of_active ha))

/-- A context is open that holds the message `m` under `key`; the curve unit is `c`. -/
structure MacOpen (key : BitVec 256) (m : List Byte) (c : CurveUnit) (p : PolyUnit) (c' : CurveUnit) : Prop where
  active : p.pstate = .active
  absorbed : Absorbed key m p.ctx
  curve : c' = c

/-- The context is finished with the MAC of `m` in PTAG; the curve unit is `c`. -/
structure MacDone (key : BitVec 256) (m : List Byte) (c : CurveUnit) (p : PolyUnit) (c' : CurveUnit) : Prop where
  done : p.pstate = .done
  tag : p.ptag = polyMac key m
  curve : c' = c

theorem leads_pSetKey (key : BitVec 256) (c : CurveUnit) :
    Leads (pSetKey key) (fun _ c' => c' = c) fun p c' => c' = c ∧ p.pkey = key :=
  Leads.wrReg (b := 32) pkeyOperand (fun _ _ _ h => h) key rfl

theorem leads_pInit (key : BitVec 256) (c : CurveUnit) :
    Leads ([cmd .pInit] ++ waitIdle) (fun p c' => c' = c ∧ p.pkey = key) (MacOpen key [] c) :=
  .command rfl fun s hb h => by
    obtain ⟨hc, rfl⟩ := h
    exact ⟨_, exec_pInit_of_idle hb, rfl, .empty _, hc⟩

/-- One chunk of P_ADD_BYTES appends it to the message (30_encoding.md R150). -/
theorem leads_pAddChunk (key : BitVec 256) (m : List Byte) (c : CurveUnit) {chunk : List Byte}
    (hl : chunk.length ≤ 16) : Leads (pAddChunk chunk) (MacOpen key m c) (MacOpen key (m ++ chunk) c) := by
  have hlen : (BitVec.ofNat 5 chunk.length).toNat = chunk.length := by
    rw [BitVec.toNat_ofNat, Nat.mod_eq_of_lt (by omega)]
  have hdata : bytesOf (ofBytes 128 chunk) chunk.length = chunk := by
    rw [bytesOf_ofBytes chunk le_rfl (by omega), Nat.sub_self, List.replicate_zero, List.append_nil]
  have hwrite := Leads.wrReg (P := MacOpen key m c) (b := 16) pdataOperand
    (fun _ _ _ h => ⟨h.active, h.absorbed, h.curve⟩) (ofBytes 128 chunk) rfl
  rw [pAddChunk, List.append_assoc]
  refine hwrite.append (.command (by rw [wellFormed_iff, lenOf, hlen]; exact hl) fun s hb h => ?_)
  obtain ⟨⟨hactive, habsorbed, hcurve⟩, hpdata⟩ := h
  refine ⟨_, exec_pAdd_of_active hb hactive (hlen.trans_le hl), hactive, habsorbed.pAdd hl ?_, hcurve⟩
  rw [hlen, show s.poly.pdata = ofBytes 128 chunk from hpdata, hdata]

/-- Chunk after chunk, whatever the cuts (40_poly1305.md R216). -/
theorem leads_pAddChunks (key : BitVec 256) (c : CurveUnit) (chunks : List (List Byte)) (m : List Byte)
    (hl : ∀ chunk ∈ chunks, chunk.length ≤ 16) :
    Leads (chunks.flatMap pAddChunk) (MacOpen key m c) (MacOpen key (m ++ chunks.flatten) c) := by
  induction chunks generalizing m with
  | nil => rw [List.flatten_nil, List.append_nil]; exact .nil fun _ _ h => h
  | cons chunk chunks ih =>
    obtain ⟨hchunk, hchunks⟩ := List.forall_mem_cons.mp hl
    rw [List.flatMap_cons, List.flatten_cons, ← List.append_assoc]
    exact (leads_pAddChunk key m c hchunk).append (ih (m ++ chunk) hchunks)

theorem leads_pFinish (key : BitVec 256) (m : List Byte) (c : CurveUnit) :
    Leads ([cmd .pFinish] ++ waitIdle) (MacOpen key m c) (MacDone key m c) :=
  .command rfl fun _ hb h => ⟨_, exec_pFinish_of_active hb h.active, rfl, h.absorbed.tag, h.curve⟩

/-- A whole MAC over any chunks of at most 16 bytes leaves the MAC of their concatenation in PTAG. -/
theorem leads_macChunks (key : BitVec 256) (c : CurveUnit) {chunks : List (List Byte)}
    (hl : ∀ chunk ∈ chunks, chunk.length ≤ 16) :
    Leads (macChunks key chunks) (fun _ c' => c' = c) (MacDone key chunks.flatten c) := by
  have hrun := (leads_pSetKey key c).append ((leads_pInit key c).append
    ((leads_pAddChunks key c chunks [] hl).append (leads_pFinish key _ c)))
  simpa only [macChunks, List.append_assoc, List.nil_append] using hrun

/-! ### Reading the tag -/

/-- No register's value depends on the pins. -/
theorem readReg_port (r : Reg) (k : Nat) (s : State) (p : Port) : readReg r k { s with port := p } = readReg r k s := by
  cases r <;> rfl

/-- `rd REG` on an idle core: the last word read is the answer that stays, and no register changes. -/
theorem runSteps_rdReg {r : Reg} {n : Nat} (hn : n < r.row.words) {s : State} {rest : List PortEvent}
    (hs : Ready (rdReg r (n + 1) ++ rest) s) :
    runSteps (n + 1) s = .next { s with port := portAnswered (.data (readReg r n s)) rest s.port } := by
  induction n generalizing rest with
  | zero => exact runSteps_succ_of_next (hs.step_read hn)
  | succ n ih =>
    have hsplit : rdReg r (n + 2) ++ rest =
        rdReg r (n + 1) ++ .bus (.read (regOffset r (n + 1)) .word) :: rest := by
      simp [rdReg, List.range_succ]
    rw [hsplit] at hs
    refine (runSteps_add (b := 1) (ih (by omega) hs)).trans (runSteps_succ_of_next ?_)
    refine (Ready.step_read (rest := rest) hn ?_).trans ?_
    · exact ⟨hs.idle, rfl, rfl⟩
    · rw [readReg_port]
      rfl

/-- ONETIMEAUTH is a MAC over the message's chunks, then the read of PTAG (30_encoding.md R151). -/
theorem oneTimeAuth_eq (key : BitVec 256) (m : List Byte) :
    oneTimeAuth key m = macChunks key (chunks16 m) ++ rdReg .ptag 4 := rfl

/-- Settles O32: the chunks of a message concatenate to it, and PTAG is read whole after the MAC. -/
theorem oneTimeAuthComputesMac : Obligations.OneTimeAuthComputesMac := by
  intro s key m hb hr hp
  have hs : Ready (macChunks key (chunks16 m) ++ rdReg .ptag 4) (enqueue (oneTimeAuth key m) s) :=
    ⟨hb, hr, by rw [enqueue_port, hp, oneTimeAuth_eq, List.nil_append]⟩
  obtain ⟨t, hmac, ht, hdone⟩ :=
    leads_macChunks key s.curve (fun _ => length_le_of_mem_chunks16) _ _ hs rfl
  rw [flatten_chunks16] at hdone
  have hread := runSteps_rdReg (r := .ptag) (n := 3) (rest := []) (by decide) (by rwa [List.append_nil])
  rw [runEvents, oneTimeAuth_eq, List.length_append]
  exact ⟨_, (runSteps_add hmac).trans hread, hdone.tag,
    congrArg (fun tag => some (Response.data (wordOf tag 3))) hdone.tag⟩

end Sys2Proof.Machine
end

section
/-! PROOFS (30_encoding.md R141 to R163). What the commands share: the one word of a command without a LEN, a rejection,
and acceptance followed by completion. -/

namespace Sys2Proof

/-- A command other than P_ADD has the one word that encodes it (30_encoding.md R147). -/
theorem soleWord_encode {i : Instr} (hi : opcode i ≠ 2) : Machine.soleWord (encode i) i := by
  have hlen : lenOf i = 0 := (opcode_eq_pAdd_or_lenOf_eq_zero i).resolve_left hi
  intro v hv
  have hop : opField v = opcode i := by
    rw [← (encodeFields i).1, opField_eq_iff, hv, opField_toNat]
  split
  case isTrue h =>
    rw [h]
    exact decode_encode ((wellFormed_iff i).mpr (by rw [hlen]; decide))
  case isFalse h =>
    cases hd : decode v with
    | illegal => rfl
    | badLen len => exact absurd (hop.symm.trans ((decode_eq_badLen_iff v len).mp hd).1) hi
    | cmd j =>
      have hv : v = encode j := Machine.eq_encode_of_decode hd
      have hopj : opcode j = opcode i := by rw [← (encodeFields j).1, ← hv, hop]
      have hlenj : lenOf j = 0 := (opcode_eq_pAdd_or_lenOf_eq_zero j).resolve_left (hopj ▸ hi)
      exact absurd (by rw [hv, encode, encode, hopj, hlenj, hlen]) h

end Sys2Proof

namespace Sys2Proof.Machine

/-- A command of the Poly1305 unit, accepted and completed: its effect on that unit, ERR = 0 and DONE = 1, and nothing
else (30_encoding.md R161, R163). -/
theorem complete_accept_of_onPoly {j : Job} (h : j.onCurve = false) (s : State) :
    complete (accept j s) = { s with poly := (effectOf j s).poly, engine := engineDone s.engine } :=
  State.eq_of_parts (effectOf_poly_congr j (accept_poly s j)) (effectOf_curve_of_onPoly h (accept j s))
    (complete_engine_of_some (s := accept j s) rfl) (complete_port (accept j s))

theorem exec_pAdd_of_long {s : State} (hb : isBusy s = false) {len : BitVec 5} (hl : 16 < len.toNat) :
    exec (.pAdd len) s = .next (completeRejected .len s) :=
  congrArg Host.Outcome.next ((unlessBusy_of_idle hb).trans (if_pos hl))

theorem exec_pAdd_of_not_active {s : State} (hb : isBusy s = false) (ha : s.poly.pstate ≠ .active) {len : BitVec 5}
    (hl : len.toNat ≤ 16) : exec (.pAdd len) s = .next (completeRejected .state s) := by
  refine congrArg Host.Outcome.next ?_
  rw [unlessBusy_of_idle hb, if_neg hl.not_gt, whenActive_of_not_active ha]

theorem exec_pFinish_of_not_active {s : State} (hb : isBusy s = false) (ha : s.poly.pstate ≠ .active) :
    exec .pFinish s = .next (completeRejected .state s) :=
  congrArg Host.Outcome.next ((unlessBusy_of_idle hb).trans (whenActive_of_not_active ha))

end Sys2Proof.Machine
end

section
/-! PROOFS (40_poly1305.md R201 to R216). The commands of the Poly1305 unit: clamping, P_INIT, P_ADD, P_FINISH, their
errors, and the chunking of a message. -/

namespace Sys2Proof.Machine

/-! ### Chunking (40_poly1305.md R216) -/

/-- Settles O31: the whole program leads from any ready core to the MAC of the concatenated chunks. -/
theorem chunkingDoesNotChangeTag : Obligations.ChunkingDoesNotChangeTag := by
  intro s key chunks hb hr hp hl
  have hs : Ready (macChunks key chunks ++ []) (enqueue (macChunks key chunks) s) :=
    ⟨hb, hr, by rw [enqueue_port, hp, List.nil_append, List.append_nil]⟩
  obtain ⟨t, hrun, -, hdone⟩ := leads_macChunks key s.curve hl _ [] hs rfl
  exact ⟨t, hrun, hdone.tag, hdone.done, hdone.curve⟩

/-! ### Clamping (40_poly1305.md R201) -/

theorem byteAt_and {w : Nat} (x y : BitVec w) (i : Nat) : byteAt (x &&& y) i = byteAt x i &&& byteAt y i :=
  BitVec.extractLsb'_and

/-- The first n bytes of a register survive a copy to a register that has room for them. -/
theorem bytesOf_ofBytes_bytesOf {v w n : Nat} (x : BitVec v) (hn : 8 * n ≤ w) :
    bytesOf (ofBytes w (bytesOf x n)) n = bytesOf x n := by
  rw [bytesOf_ofBytes _ (length_bytesOf x n).le hn, length_bytesOf, Nat.sub_self, List.replicate_zero, List.append_nil]

theorem byteAt_ofBytes_bytesOf {v w n i : Nat} (x : BitVec v) (hn : 8 * n ≤ w) (hi : i < n) :
    byteAt (ofBytes w (bytesOf x n)) i = byteAt x i :=
  List.map_inj_left.mp (bytesOf_ofBytes_bytesOf x hn) i (List.mem_range.mpr hi)

theorem clampR_eq (key : BitVec 256) : clampR key = ofBytes 128 (bytesOf key 16) &&& clampMask := by
  rw [clampR, take_bytesOf key 32 16 (by norm_num)]

theorem clampR_toNat (key : BitVec 256) :
    (clampR key).toNat = leNat ((bytesOf key 32).take 16) &&& 0x0ffffffc0ffffffc0ffffffc0fffffff := by
  rw [clampR, BitVec.toNat_and, ofBytes_toNat _ (by simp)]
  rfl

/-- CLAMP_R, byte by byte. -/
theorem byteAt_clampMask {i : Nat} (hi : i < 16) :
    byteAt clampMask i = if i % 4 = 3 then 0x0F else if i % 4 = 0 ∧ i ≠ 0 then 0xFC else 0xFF := by
  revert i
  decide

/-- Settles O25: clamping is a mask, so it acts byte by byte, and once is enough. -/
theorem clampKeepsListedBits : Obligations.ClampKeepsListedBits := by
  intro key
  refine ⟨clampR_toNat key, fun i hi => ?_, ?_⟩
  · rw [clampR_eq, byteAt_and, byteAt_ofBytes_bytesOf key le_rfl hi, byteAt_clampMask hi]
  · rw [clampR_eq, bytesOf_ofBytes_bytesOf _ (by norm_num), ofBytes_bytesOf _ 16 le_rfl, clampR, BitVec.and_assoc,
      BitVec.and_self]

/-! ### P_INIT (40_poly1305.md R210) -/

theorem padOf_toNat (key : BitVec 256) : (padOf key).toNat = leNat ((bytesOf key 32).drop 16) :=
  ofBytes_toNat _ (by simp)

/-- Settles O26: P_INIT is accepted in every PSTATE, and its effect is the empty context under PKEY. -/
theorem pInitStartsContext : Obligations.PInitStartsContext := by
  refine ⟨soleWord_encode (i := .pInit) (by decide), fun s hb => ?_⟩
  refine ⟨_, _, exec_pInit_of_idle hb, rfl, rfl, ?_⟩
  rw [complete_accept_of_onPoly rfl]
  exact ⟨rfl, clampR_toNat s.poly.pkey, padOf_toNat s.poly.pkey, rfl, rfl, rfl⟩

/-! ### P_ADD (40_poly1305.md R212) -/

/-- In a word with RSV = 0, LEN is all there is above the opcode (30_encoding.md R140). -/
theorem lenField_of_rsv_zero {w : Word} (h : w.toNat / 2 ^ 13 = 0) :
    lenField w = BitVec.ofNat 5 (w.toNat / 2 ^ 8) ∧ (lenField w).toNat = w.toNat / 2 ^ 8 := by
  have hlen : (lenField w).toNat = w.toNat / 2 ^ 8 := by
    rw [lenField_toNat]
    omega
  exact ⟨by rw [← hlen, BitVec.ofNat_toNat, BitVec.setWidth_eq], hlen⟩

/-- The words of P_ADD (30_encoding.md R141, R145). -/
theorem decode_of_pAdd_opcode {w : Word} (hw : w.toNat % 2 ^ 8 = 0x02) :
    decode w =
      if w.toNat / 2 ^ 13 ≠ 0 then .illegal
      else if 16 < w.toNat / 2 ^ 8 then .badLen (BitVec.ofNat 5 (w.toNat / 2 ^ 8))
      else .cmd (.pAdd (BitVec.ofNat 5 (w.toNat / 2 ^ 8))) := by
  have hop : opField w = 2 := (opField_eq_iff w 2).mpr hw
  have hdefined : instrOfOpcode (opField w) (lenField w) = some (.pAdd (lenField w)) := by rw [hop]; rfl
  rw [decode_of_defined hdefined]
  by_cases hrsv : w.toNat / 2 ^ 13 = 0
  case neg => rw [if_pos hrsv, if_pos (mt (rsvField_eq_zero_iff w).mp hrsv)]
  case pos =>
    obtain ⟨hfield, hlen⟩ := lenField_of_rsv_zero hrsv
    have hrsv0 : rsvField w = 0 := (rsvField_eq_zero_iff w).mpr hrsv
    rw [if_neg (not_not.mpr hrsv0), if_neg (fun h => h.1 hop), if_neg (not_not.mpr hrsv), hlen, ← hfield]
    simp only [hop, true_and]

theorem addH_toNat (ctx : PolyCtx) (bytes : List Byte) :
    (addH ctx bytes).toNat =
      if bytes.length < 16 then ctx.h.toNat
      else ((ctx.h.toNat + (leNat (bytes.take 16) + 2 ^ 128)) * ctx.r.toNat) % (2 ^ 130 - 5) := by
  unfold addH
  split
  case isFalse h => rw [if_pos (Nat.lt_of_not_le h)]
  case isTrue h =>
    have hlt := polyBlock_lt ctx.h.toNat ctx.r.toNat (fullBlock (bytes.take 16))
    rw [if_neg h.not_gt, BitVec.toNat_ofNat, Nat.mod_eq_of_lt (hlt.trans p1305_lt)]
    rfl

theorem addRest_eq (bytes : List Byte) :
    addRest bytes = if bytes.length < 16 then bytes else bytes.drop 16 := by
  simp only [addRest, ← Nat.not_lt, ite_not]

/-- Settles O27: the buffer and the chunk are at most 31 bytes, so at most 15 are left after a block. -/
theorem pAddAbsorbsBytes : Obligations.PAddAbsorbsBytes := by
  refine ⟨fun w hw => decode_of_pAdd_opcode hw, fun s len hb => ⟨exec_pAdd_of_long hb,
    fun hl ha => exec_pAdd_of_not_active hb ha hl, fun hl ha => ?_⟩⟩
  refine ⟨_, _, exec_pAdd_of_active hb ha hl, rfl, rfl, ?_⟩
  rw [complete_accept_of_onPoly rfl]
  refine ⟨rfl, ?_⟩
  intro bytes rest
  have hrest : addRest bytes = rest := addRest_eq bytes
  have hshort : rest.length ≤ 15 := by
    rw [← hrest]
    refine length_addRest_le ?_
    have hbytes : bytes.length = s.poly.ctx.bufLen.toNat + len.toNat := length_addBytes ..
    have := s.poly.ctx.bufLen.isLt
    omega
  refine ⟨addH_toNat s.poly.ctx bytes, ?_, ?_⟩
  · change (BitVec.ofNat 4 (addRest bytes).length).toNat = rest.length
    rw [hrest, BitVec.toNat_ofNat, Nat.mod_eq_of_lt (by omega)]
  · change bytesOf (ofBytes 128 (addRest bytes)) 16 = _
    rw [hrest, bytesOf_ofBytes (n := 16) rest (by omega) le_rfl]

/-- The buffer of a sound context is its buffered bytes, zero-filled (10_state.md R59, log 11). -/
theorem CtxSound.ofBytes_buf {ctx : PolyCtx} (h : CtxSound ctx) :
    ofBytes 128 (bytesOf ctx.buf ctx.bufLen.toNat) = ctx.buf := by
  obtain ⟨-, -, hzero⟩ := h
  have hlen := ctx.bufLen.isLt
  refine eq_of_byteAt_eq (n := 16) fun i hi => ?_
  by_cases hin : i < ctx.bufLen.toNat
  · exact byteAt_ofBytes_bytesOf ctx.buf (by omega) hin
  · rw [byteAt_ofBytes_of_ge 128 (by rw [length_bytesOf]; omega), hzero i hi (by omega)]

/-- Settles O28: with no byte added the bytes are the buffered ones, fewer than a block. -/
theorem pAddZeroIsNoOp : Obligations.PAddZeroIsNoOp := by
  intro s hs hb ha
  have hbytes : addBytes s.poly.ctx s.poly.pdata 0 = bytesOf s.poly.ctx.buf s.poly.ctx.bufLen.toNat :=
    List.append_nil _
  have hshort : ¬16 ≤ (bytesOf s.poly.ctx.buf s.poly.ctx.bufLen.toNat).length := by
    have := s.poly.ctx.bufLen.isLt
    rw [length_bytesOf]
    omega
  refine ⟨_, exec_pAdd_of_active hb ha (by decide), ?_⟩
  rw [complete_accept_of_onPoly rfl, effectOf_pAdd, effectPAdd_poly, hbytes, addH, if_neg hshort, addRest,
    if_neg hshort, hs.poly.1.ofBytes_buf, length_bytesOf, BitVec.ofNat_toNat, BitVec.setWidth_eq]

/-! ### P_FINISH (40_poly1305.md R214) -/

theorem finishH_eq (ctx : PolyCtx) :
    finishH ctx =
      if ctx.bufLen.toNat = 0 then ctx.h.toNat
      else ((ctx.h.toNat + (leNat (bytesOf ctx.buf ctx.bufLen.toNat) + 2 ^ (8 * ctx.bufLen.toNat))) * ctx.r.toNat)
        % (2 ^ 130 - 5) := by
  have hempty : ctx.bufLen = 0 ↔ ctx.bufLen.toNat = 0 := by rw [← BitVec.toNat_inj]; rfl
  simp only [finishH, hempty, partialBlock, length_bytesOf]
  rfl

theorem polyTag_toNat (h s : Nat) : (polyTag h s).toNat = (h + s) % 2 ^ 128 := by
  rw [polyTag, BitVec.toNat_ofNat, Nat.mod_mod]

/-- Settles O29: the tag by `finishH_eq`, from the accumulator and the pad of the snapshot. -/
theorem pFinishMakesTag : Obligations.PFinishMakesTag := by
  refine ⟨soleWord_encode (i := .pFinish) (by decide), fun s hb =>
    ⟨exec_pFinish_of_not_active hb, fun ha => ?_⟩⟩
  refine ⟨_, _, exec_pFinish_of_active hb ha, rfl, rfl, ?_⟩
  rw [complete_accept_of_onPoly rfl]
  refine ⟨rfl, (polyTag_toNat (finishH s.poly.ctx) s.poly.ctx.s.toNat).trans ?_⟩
  rw [finishH_eq]

/-! ### Errors (40_poly1305.md R215) -/

/-- Settles O30: the context check rejects, and P_INIT has none. -/
theorem wrongStateRejected : Obligations.WrongStateRejected := fun _ hb =>
  ⟨fun ha => ⟨fun _ hl => exec_pAdd_of_not_active hb ha hl, exec_pFinish_of_not_active hb ha⟩,
    ⟨_, exec_pInit_of_idle hb, rfl⟩⟩

end Sys2Proof.Machine
end

section
/-! PROOFS (42_field.md R300 to R305). The field functions on exact integers are the operations of GF(2^255 − 19). -/

namespace Sys2Proof.Machine

theorem natCast_feAdd (a b : Nat) : (feAdd a b : ZMod p25519) = a + b := by
  rw [feAdd, ZMod.natCast_mod, Nat.cast_add]

theorem natCast_feMul (a b : Nat) : (feMul a b : ZMod p25519) = a * b := by
  rw [feMul, ZMod.natCast_mod, Nat.cast_mul]

theorem natCast_feSqr (a : Nat) : (feSqr a : ZMod p25519) = (a : ZMod p25519) ^ 2 := by
  rw [feSqr, ZMod.natCast_mod, Nat.cast_mul, sq]

theorem natCast_feSub (a b : Nat) : (feSub a b : ZMod p25519) = a - b := by
  have hp : (p25519 : Int) ≠ 0 := by exact_mod_cast p25519_pos.ne'
  have htoNat : (feSub a b : Int) = ((a : Int) - b) % p25519 := Int.toNat_of_nonneg (Int.emod_nonneg _ hp)
  rw [← Int.cast_natCast (feSub a b), htoNat, ZMod.intCast_mod, Int.cast_sub, Int.cast_natCast, Int.cast_natCast]

/-- Squaring computes the power: an odd exponent takes one factor out, and half of the rest goes to the square. -/
theorem natCast_fePow {bits e : Nat} (a : Nat) (h : e < 2 ^ bits) :
    (fePow bits a e : ZMod p25519) = (a : ZMod p25519) ^ e := by
  induction bits generalizing a e with
  | zero =>
    obtain rfl : e = 0 := by simpa using h
    rw [fePow, Nat.cast_one, pow_zero]
  | succ bits ih =>
    have hhalf : (fePow bits (feSqr a) (e / 2) : ZMod p25519) = (a : ZMod p25519) ^ (2 * (e / 2)) := by
      rw [ih (feSqr a) (by omega), natCast_feSqr, pow_mul]
    rw [fePow]
    split
    case isTrue hodd => rw [natCast_feMul, hhalf, ← pow_succ', show 2 * (e / 2) + 1 = e by omega]
    case isFalse heven => rw [hhalf, show 2 * (e / 2) = e by omega]

theorem natCast_feInv (a : Nat) : (feInv a : ZMod p25519) = (a : ZMod p25519) ^ (p25519 - 2) :=
  natCast_fePow a (by decide)

/-- Zero has one canonical form (42_field.md R300). -/
theorem eq_zero_of_natCast_eq_zero {x : Nat} (hx : x < p25519) (h : (x : ZMod p25519) = 0) : x = 0 :=
  Nat.eq_zero_of_dvd_of_lt ((ZMod.natCast_eq_zero_iff x p25519).mp h) hx

end Sys2Proof.Machine
end

section
/-! PROOFS (41_x25519.md R251, R252). The operands of X25519: the clamped scalar and the decoded u-coordinate. -/

namespace Sys2Proof.Machine

/-! ### Scalar clamping (41_x25519.md R251) -/

theorem byteAt_clampScalar (a : BitVec 256) {i : Nat} (hi : i < 32) :
    byteAt (clampScalar a) i =
      if i = 31 then (byteAt a 31 &&& 0x7F) ||| 0x40 else if i = 0 then byteAt a 0 &&& 0xF8 else byteAt a i := by
  have hw : 8 * i + 8 ≤ 256 := by omega
  simp only [clampScalar, byteAt_setByte, hw, Nat.reduceMul, Nat.reduceAdd, Nat.reduceLeDiff, if_true]
  split <;> simp_all

/-- The top byte of a clamped scalar has bit 6 set and bit 7 clear. -/
theorem clampTop_range : ∀ b : Byte, 64 ≤ ((b &&& 0x7F) ||| 0x40).toNat ∧ ((b &&& 0x7F) ||| 0x40).toNat < 128 := by
  decide

theorem clampLow_mod : ∀ b : Byte, (b &&& 0xF8).toNat % 8 = 0 := by decide

/-- Clamping a byte a second time changes nothing. -/
theorem clampByte_idem :
    ∀ b : Byte, (((b &&& 0x7F) ||| 0x40) &&& 0x7F) ||| 0x40 = (b &&& 0x7F) ||| 0x40 ∧
      (b &&& 0xF8) &&& 0xF8 = b &&& 0xF8 := by decide

theorem clampScalar_idem (a : BitVec 256) : clampScalar (clampScalar a) = clampScalar a := by
  refine eq_of_byteAt_eq (n := 32) fun i hi => ?_
  rw [byteAt_clampScalar _ hi, byteAt_clampScalar a (by decide : 31 < 32), byteAt_clampScalar a (by decide : 0 < 32),
    byteAt_clampScalar a hi]
  split
  · exact (clampByte_idem _).1
  · split
    · exact (clampByte_idem _).2
    · rfl

/-- Settles O33: the top byte gives the range, the bottom byte the divisibility. -/
theorem scalarClampRange : Obligations.ScalarClampRange := by
  intro a
  have hlow : byteAt (clampScalar a) 0 = byteAt a 0 &&& 0xF8 := byteAt_clampScalar a (by decide)
  have htop : byteAt (clampScalar a) 31 = (byteAt a 31 &&& 0x7F) ||| 0x40 := byteAt_clampScalar a (by decide)
  have hmid : ∀ i, 1 ≤ i → i ≤ 30 → byteAt (clampScalar a) i = byteAt a i := fun i h1 h30 => by
    rw [byteAt_clampScalar a (by omega), if_neg (by omega), if_neg (by omega)]
  have hmod : (clampScalar a).toNat % 256 % 8 = 0 := by
    have h := clampLow_mod (byteAt a 0)
    rwa [← hlow, byteAt_toNat, Nat.mul_zero, Nat.pow_zero, Nat.div_one] at h
  have hrange : 64 ≤ (clampScalar a).toNat / 2 ^ 248 % 256 ∧ (clampScalar a).toNat / 2 ^ 248 % 256 < 128 := by
    have h := clampTop_range (byteAt a 31)
    rwa [← htop, byteAt_toNat] at h
  have hlt := (clampScalar a).isLt
  exact ⟨hlow, htop, hmid, by omega, by omega, by omega, clampScalar_idem a⟩

/-! ### The u-coordinate (41_x25519.md R252) -/

theorem decodeU_true (u : BitVec 256) : decodeU true u = u.toNat % 2 ^ 255 % p25519 := by
  rw [decodeU, if_pos rfl, Nat.and_two_pow_sub_one_eq_mod]

theorem decodeU_false (u : BitVec 256) : decodeU false u = u.toNat % p25519 := rfl

theorem decodeU_lt (mask : Bool) (u : BitVec 256) : decodeU mask u < p25519 := Nat.mod_lt _ p25519_pos

/-- The base point's u-coordinate has bit 255 clear and is reduced (41_x25519.md R260). -/
theorem decodeU_nine (mask : Bool) : decodeU mask 9 = 9 := by
  cases mask <;> decide

/-- With the mask, bit 255 is ignored (log 6). -/
theorem decodeU_true_flip_top (u : BitVec 256) : decodeU true (u ^^^ BitVec.ofNat 256 (2 ^ 255)) = decodeU true u := by
  have htop : (BitVec.ofNat 256 (2 ^ 255)).toNat % 2 ^ 255 = 0 := by decide
  rw [decodeU_true, decodeU_true, BitVec.toNat_xor, Nat.xor_mod_two_pow, htop, Nat.xor_zero]

/-- Settles O34: an AND with 2^255 − 1 is the remainder modulo 2^255. -/
theorem uCoordinateDecoding : Obligations.UCoordinateDecoding := fun u => ⟨decodeU_true u, decodeU_false u⟩

end Sys2Proof.Machine
end

section
/-! PROOFS (41_x25519.md R253 to R258). The ladder: the masked swap, every value in the field, and the refinement to plain
field arithmetic, where the pending swap is paid at once. -/

namespace Sys2Proof.Machine

/-! ### The masked swap (41_x25519.md R255) -/

/-- The mask of swap = 0 is 0: nothing moves, whatever the values are. -/
theorem cswap_false (a b : Nat) : cswap false a b = (a, b) := by
  have hmask : (0#256 - (BitVec.ofBool false).setWidth 256).toNat = 0 := by decide
  simp only [cswap, hmask, Nat.zero_and, Nat.xor_zero]

/-- The mask of swap = 1 is all ones: the dummy is a xor b. -/
theorem cswap_true {a b : Nat} (ha : a < 2 ^ 256) (hb : b < 2 ^ 256) : cswap true a b = (b, a) := by
  have hmask : (0#256 - (BitVec.ofBool true).setWidth 256).toNat = 2 ^ 256 - 1 := by decide
  have hdummy : (2 ^ 256 - 1) &&& (a ^^^ b) = a ^^^ b := by
    rw [Nat.and_comm, Nat.and_two_pow_sub_one_of_lt_two_pow (Nat.xor_lt_two_pow ha hb)]
  simp only [cswap, hmask, hdummy]
  rw [← Nat.xor_assoc, Nat.xor_self, Nat.zero_xor, Nat.xor_comm a b, ← Nat.xor_assoc, Nat.xor_self, Nat.zero_xor]

/-- Settles O35: by the mask's two values. -/
theorem cswapSwaps : Obligations.CswapSwaps := fun a b ha hb => ⟨cswap_true ha hb, cswap_false a b⟩

/-! ### Values stay in the field (41_x25519.md R258) -/

/-- All four coordinates are field elements. -/
structure Ladder.InField (l : Ladder) : Prop where
  x2 : l.x2 < p25519
  z2 : l.z2 < p25519
  x3 : l.x3 < p25519
  z3 : l.z3 < p25519

/-- Whatever goes into a step, the last operation on each coordinate reduces it. -/
theorem ladderStep_inField (x1 : Nat) (l : Ladder) : (ladderStep x1 l).InField :=
  ⟨feMul_lt _ _, feMul_lt _ _, feSqr_lt _, feMul_lt _ _⟩

theorem ladderIter_inField (x1 : Nat) (kt : Bool) (l : Ladder) : (ladderIter x1 kt l).InField :=
  ladderStep_inField x1 _

theorem one_lt_p25519 : 1 < p25519 := by decide

theorem ladderInit_inField {x1 : Nat} (h : x1 < p25519) : (ladderInit x1).InField :=
  ⟨one_lt_p25519, p25519_pos, h, one_lt_p25519⟩

theorem ladderLoop_inField (n : BitVec 256) (x1 t : Nat) {l : Ladder} (h : l.InField) :
    (ladderLoop n x1 t l).InField := by
  induction t generalizing l with
  | zero => exact h
  | succ t ih => exact ih (ladderIter_inField x1 _ l)

theorem getLsbD_255_of_lt_p25519 {x : BitVec 256} (h : x.toNat < p25519) : x.getLsbD 255 = false :=
  Nat.testBit_lt_two_pow (h.trans (by decide))

/-- Settles O36: a step reduces every coordinate, and the result is reduced last. -/
theorem ladderStaysInField : Obligations.LadderStaysInField := by
  refine ⟨fun x1 kt l _ _ _ _ _ => ?_, fun mask a u => ?_⟩
  · obtain ⟨hx2, hz2, hx3, hz3⟩ := ladderIter_inField x1 kt l
    exact ⟨hx2, hz2, hx3, hz3⟩
  · exact ⟨x25519_canonical mask a u, getLsbD_255_of_lt_p25519 (x25519_canonical mask a u)⟩

/-! ### The points of a ladder in GF(p25519) -/

/-- The points exchanged when the bit is set. -/
def FieldPair.swapIf (b : Bool) (q : FieldPair) : FieldPair := if b then q.swap else q

theorem FieldPair.swapIf_xor (b c : Bool) (q : FieldPair) : q.swapIf (b ^^ c) = (q.swapIf b).swapIf c := by
  cases b <;> cases c <;> rfl

/-- One bit of the mathematical ladder: the points are exchanged around the step of a 1 bit. -/
theorem fieldLadder_succ (n : Nat) (x1 : ZMod p25519) (t : Nat) (q : FieldPair) :
    fieldLadder n x1 (t + 1) q =
      fieldLadder n x1 t (((q.swapIf (n.testBit t)).step x1).swapIf (n.testBit t)) := by
  rw [fieldLadder]
  cases n.testBit t <;> rfl

/-- The coordinates of a ladder, as they stand in the core, as field elements. -/
def Ladder.points (l : Ladder) : FieldPair := { x2 := l.x2, z2 := l.z2, x3 := l.x3, z3 := l.z3 }

/-- The points a ladder stands for: the pending swap carried out. -/
def Ladder.settled (l : Ladder) : FieldPair := l.points.swapIf l.swap

theorem Ladder.InField.points_swapPoints {l : Ladder} (h : l.InField) (b : Bool) :
    (swapPoints b l).points = l.points.swapIf b := by
  cases b
  case false =>
    simp only [swapPoints, cswap_false]
    rfl
  case true =>
    obtain ⟨hx2, hz2, hx3, hz3⟩ := h
    simp only [swapPoints, cswap_true (hx2.trans p25519_lt) (hx3.trans p25519_lt),
      cswap_true (hz2.trans p25519_lt) (hz3.trans p25519_lt)]
    rfl

/-- ladder_step is one doubling and one differential addition in the field (41_x25519.md R256). -/
theorem points_ladderStep (x1 : Nat) (l : Ladder) : (ladderStep x1 l).points = l.points.step x1 := by
  simp only [ladderStep, Ladder.points, FieldPair.step, natCast_feAdd, natCast_feSub, natCast_feMul, natCast_feSqr,
    a24, Nat.cast_ofNat]

/-- An iteration swaps by the last bit xor this one, which pays the pending swap and exchanges the points for this bit; the
exchange back is left pending (41_x25519.md R257). -/
theorem Ladder.InField.settled_ladderIter {l : Ladder} (h : l.InField) (x1 : Nat) (kt : Bool) :
    (ladderIter x1 kt l).settled = ((l.settled.swapIf kt).step x1).swapIf kt := by
  have hpoints : (ladderIter x1 kt l).points = (swapPoints (l.swap ^^ kt) l).points.step x1 :=
    points_ladderStep x1 { swapPoints (l.swap ^^ kt) l with swap := kt }
  rw [Ladder.settled, hpoints, h.points_swapPoints, FieldPair.swapIf_xor]
  rfl

theorem Ladder.InField.settled_ladderLoop {l : Ladder} (h : l.InField) (n : BitVec 256) (x1 t : Nat) :
    (ladderLoop n x1 t l).settled = fieldLadder n.toNat x1 t l.settled := by
  induction t generalizing l with
  | zero => rfl
  | succ t ih =>
    rw [ladderLoop, ih (ladderIter_inField x1 _ l), h.settled_ladderIter, fieldLadder_succ, BitVec.testBit_toNat]

/-! ### The result (41_x25519.md R253, R257) -/

/-- The points from which the result is taken, after 255 bits of the clamped scalar. -/
def resultPoints (a : BitVec 256) (x1 : Nat) : FieldPair :=
  fieldLadder (clampScalar a).toNat x1 255 { x2 := 1, z2 := 0, x3 := x1, z3 := 1 }

theorem settled_ladderInit (x1 : Nat) : (ladderInit x1).settled = { x2 := 1, z2 := 0, x3 := x1, z3 := 1 } := by
  simp [Ladder.settled, Ladder.points, ladderInit, FieldPair.swapIf]

theorem settled_result (a : BitVec 256) {x1 : Nat} (h : x1 < p25519) :
    (ladderLoop (clampScalar a) x1 255 (ladderInit x1)).settled = resultPoints a x1 := by
  rw [(ladderInit_inField h).settled_ladderLoop, settled_ladderInit, resultPoints]

/-- The last swap of R257 carries out the pending one, and the result is the quotient x2 / z2 of the settled points. -/
theorem natCast_x25519 (mask : Bool) (a u : BitVec 256) :
    ((x25519 mask a u).toNat : ZMod p25519) =
      (resultPoints a (decodeU mask u)).x2 * (resultPoints a (decodeU mask u)).z2 ^ (p25519 - 2) := by
  have hfinal : (ladderLoop (clampScalar a) (decodeU mask u) 255 (ladderInit (decodeU mask u))).InField :=
    ladderLoop_inField _ _ _ (ladderInit_inField (decodeU_lt mask u))
  rw [x25519, fieldBytes_toNat (feMul_lt _ _), natCast_feMul, natCast_feInv, ← settled_result a (decodeU_lt mask u),
    Ladder.settled, ← hfinal.points_swapPoints]
  rfl

/-- Settles O37: the loop keeps the settled points, and the final swap and inversion act on them. -/
theorem ladderComputesInField : Obligations.LadderComputesInField := natCast_x25519

/-! ### The point with u = 0 (41_x25519.md R262, R263) -/

/-- Both points have a zero coordinate. -/
def FieldPair.Degenerate (q : FieldPair) : Prop := q.x2 * q.z2 = 0 ∧ q.x3 * q.z3 = 0

theorem FieldPair.Degenerate.swapIf {q : FieldPair} (h : q.Degenerate) (b : Bool) : (q.swapIf b).Degenerate := by
  cases b
  case false => exact h
  case true => exact h.symm

/-- Doubling multiplies by AA − BB = 4·x2·z2, and the differential addition by x1. -/
theorem FieldPair.Degenerate.step_zero {q : FieldPair} (h : q.Degenerate) : (q.step 0).Degenerate := by
  have he : (q.x2 + q.z2) ^ 2 - (q.x2 - q.z2) ^ 2 = 0 := by linear_combination 4 * h.1
  exact ⟨by simp only [FieldPair.step, he, zero_mul, mul_zero], by simp only [FieldPair.step, zero_mul, mul_zero]⟩

theorem FieldPair.Degenerate.fieldLadder_zero {q : FieldPair} (h : q.Degenerate) (n t : Nat) :
    (fieldLadder n 0 t q).Degenerate := by
  induction t generalizing q with
  | zero => exact h
  | succ t ih =>
    rw [fieldLadder_succ]
    exact ih ((h.swapIf _).step_zero.swapIf _)

theorem FieldPair.Degenerate.x2_mul_pow {q : FieldPair} (h : q.Degenerate) : q.x2 * q.z2 ^ (p25519 - 2) = 0 := by
  rw [show p25519 - 2 = (p25519 - 3) + 1 by decide, pow_succ', ← mul_assoc, h.1, zero_mul]

/-- Settles O38: from u = 0 no step leaves the points with a zero coordinate. -/
theorem zeroPointGivesZero : Obligations.ZeroPointGivesZero := by
  intro mask a u hu
  have hstart : FieldPair.Degenerate { x2 := 1, z2 := 0, x3 := 0, z3 := 1 } := ⟨mul_zero 1, zero_mul 1⟩
  have hfield : ((x25519 mask a u).toNat : ZMod p25519) = 0 := by
    rw [natCast_x25519, hu, resultPoints, Nat.cast_zero]
    exact (hstart.fieldLadder_zero _ 255).x2_mul_pow
  exact BitVec.eq_of_toNat_eq (eq_zero_of_natCast_eq_zero (x25519_canonical mask a u) hfield)

end Sys2Proof.Machine
end

section
/-! PROOFS (41_x25519.md R260 to R263). The commands X_BASE and X_MUL. -/

namespace Sys2Proof.Machine

/-- A command of the curve unit, accepted and completed: its effect on that unit, ERR = 0 and DONE = 1, and nothing else
(30_encoding.md R161, R163). -/
theorem complete_accept_of_onCurve {j : Job} (h : j.onCurve = true) (s : State) :
    complete (accept j s) = { s with curve := (effectOf j s).curve, engine := engineDone s.engine } :=
  State.eq_of_parts (effectOf_poly_of_onCurve h (accept j s)) (effectOf_curve_congr j (accept_curve s j))
    (complete_engine_of_some (s := accept j s) rfl) (complete_port (accept j s))

theorem exec_xBase_of_idle {s : State} (hb : isBusy s = false) :
    exec .xBase s = .next (accept (.xBase s.curve.xscalar) s) :=
  congrArg Host.Outcome.next (unlessBusy_of_idle hb)

theorem exec_xMul_of_idle {s : State} (hb : isBusy s = false) :
    exec .xMul s = .next (accept (.xMul s.curve.xscalar s.curve.xu) s) :=
  congrArg Host.Outcome.next (unlessBusy_of_idle hb)

/-- X25519 reads its u-coordinate through the decoding alone (41_x25519.md R257). -/
theorem x25519_congr {m m' : Bool} {u u' : BitVec 256} (h : decodeU m u = decodeU m' u') (a : BitVec 256) :
    x25519 m a u = x25519 m' a u' := by
  rw [x25519, x25519, h]

theorem x25519_nine (m m' : Bool) (a : BitVec 256) : x25519 m a 9 = x25519 m' a 9 :=
  x25519_congr ((decodeU_nine m).trans (decodeU_nine m').symm) a

theorem complete_accept_xBase (s : State) (k : BitVec 256) :
    complete (accept (.xBase k) s) =
      { s with curve := { s.curve with xout := x25519 true k 9 }, engine := engineDone s.engine } :=
  complete_accept_of_onCurve rfl s

theorem complete_accept_xMul (s : State) (k u : BitVec 256) :
    complete (accept (.xMul k u) s) =
      { s with curve := { s.curve with xout := x25519 true k u }, engine := engineDone s.engine } :=
  complete_accept_of_onCurve rfl s

/-- Settles O39: 9 decodes to itself whatever the parameter is. -/
theorem xBaseComputesPublicKey : Obligations.XBaseComputesPublicKey := by
  refine ⟨soleWord_encode (i := .xBase) (by decide), fun s hb => ⟨_, exec_xBase_of_idle hb, rfl, fun mask => ?_⟩⟩
  rw [complete_accept_xBase, x25519_nine true mask]

/-- Settles O40: acceptance takes the snapshot, and completion writes X25519 of it. -/
theorem xMulComputesSharedSecret : Obligations.XMulComputesSharedSecret :=
  ⟨soleWord_encode (i := .xMul) (by decide), fun s hb =>
    ⟨_, exec_xMul_of_idle hb, rfl, complete_accept_xMul s s.curve.xscalar s.curve.xu⟩⟩

/-- Settles O41: XOUT depends on XU through the decoding, which fixes 9 and ignores bit 255. -/
theorem baseIsMulOfNine : Obligations.BaseIsMulOfNine := by
  intro s hb
  refine ⟨_, _, _, exec_xBase_of_idle hb, exec_xMul_of_idle hb, ?_, exec_xMul_of_idle hb, fun t ht => ?_⟩
  · rw [complete_accept_xMul, complete_accept_xBase]
  · obtain rfl := Host.Outcome.next.inj ((exec_xMul_of_idle hb).symm.trans ht)
    rw [complete_accept_xMul, complete_accept_xMul]
    exact x25519_congr (decodeU_true_flip_top s.curve.xu) s.curve.xscalar

end Sys2Proof.Machine
end

section
/-! PROOFS (00_scope.md R9). p25519 is prime: a chain of Lucas certificates, each with a primitive root of its number and
the prime factors of the number minus 1. A factor that needs a certificate of its own comes first in its list. -/

namespace Sys2Proof.Machine

/-- Lucas' test with the factorisation as a list: a prime that divides n − 1 is one of its members. -/
theorem prime_of_lucas {n : Nat} (a : ZMod n) (factors : List Nat) (hprime : ∀ q ∈ factors, q.Prime)
    (hprod : factors.prod = n - 1) (hone : a ^ (n - 1) = 1) (hne : ∀ q ∈ factors, a ^ ((n - 1) / q) ≠ 1) : n.Prime :=
  lucas_primality n a hone fun q hq hdvd =>
    hne q (mem_list_primes_of_dvd_prod hq.prime (fun r hr => (hprime r hr).prime) (hprod ▸ hdvd))

theorem prime_2773320623 : Nat.Prime 2773320623 := by
  refine prime_of_lucas 5 [2, 2437, 569003] (by norm_num) (by norm_num) (by reduce_mod_char) ?_
  norm_num
  reduce_mod_char
  decide

theorem prime_72106336199 : Nat.Prime 72106336199 := by
  refine prime_of_lucas 7 [2773320623, 2, 13] ?_ (by norm_num) (by reduce_mod_char) ?_
  · exact List.forall_mem_cons.mpr ⟨prime_2773320623, by norm_num⟩
  · norm_num
    reduce_mod_char
    decide

theorem prime_1919519569386763 : Nat.Prime 1919519569386763 := by
  refine prime_of_lucas 2 [2, 3, 7, 19, 47, 47, 127, 8574133] (by norm_num) (by norm_num) (by reduce_mod_char) ?_
  norm_num
  reduce_mod_char
  decide

theorem prime_31757755568855353 : Nat.Prime 31757755568855353 := by
  refine prime_of_lucas 10 [2, 2, 2, 3, 31, 107, 223, 4153, 430751] (by norm_num) (by norm_num) (by reduce_mod_char) ?_
  norm_num
  reduce_mod_char
  decide

theorem prime_75445702479781427272750846543864801 : Nat.Prime 75445702479781427272750846543864801 := by
  refine prime_of_lucas 7 [72106336199, 1919519569386763, 2, 2, 2, 2, 2, 3, 3, 5, 5, 75707] ?_ (by norm_num)
    (by reduce_mod_char) ?_
  · exact List.forall_mem_cons.mpr
      ⟨prime_72106336199, List.forall_mem_cons.mpr ⟨prime_1919519569386763, by norm_num⟩⟩
  · norm_num
    reduce_mod_char
    decide

/-- The large factor of p25519 − 1. -/
theorem prime_74058212732561358302231226437062788676166966415465897661863160754340907 :
    Nat.Prime 74058212732561358302231226437062788676166966415465897661863160754340907 := by
  refine prime_of_lucas 2
    [75445702479781427272750846543864801, 31757755568855353, 2, 3, 353, 57467, 132049, 1923133] ?_ (by norm_num)
    (by reduce_mod_char) ?_
  · exact List.forall_mem_cons.mpr
      ⟨prime_75445702479781427272750846543864801, List.forall_mem_cons.mpr ⟨prime_31757755568855353, by norm_num⟩⟩
  · norm_num
    reduce_mod_char
    decide

theorem prime_p25519 : p25519.Prime := by
  change Nat.Prime 57896044618658097711785492504343953926634992332820282019728792003956564819949
  refine prime_of_lucas 2
    [74058212732561358302231226437062788676166966415465897661863160754340907, 2, 2, 3, 65147] ?_ (by norm_num)
    (by reduce_mod_char) ?_
  · exact List.forall_mem_cons.mpr
      ⟨prime_74058212732561358302231226437062788676166966415465897661863160754340907, by norm_num⟩
  · norm_num
    reduce_mod_char
    decide

end Sys2Proof.Machine
end

section
/-! PROOFS (42_field.md R302, R305). Subtraction and inversion on exact integers. -/

namespace Sys2Proof.Machine

theorem intCast_feSub (a b : Nat) : (feSub a b : Int) = ((a : Int) - b) % p25519 :=
  Int.toNat_of_nonneg (Int.emod_nonneg _ (by exact_mod_cast p25519_pos.ne'))

/-- An element of GF(p25519) has one canonical form (42_field.md R300). -/
theorem eq_of_natCast_eq {x y : Nat} (hx : x < p25519) (hy : y < p25519) (h : (x : ZMod p25519) = y) : x = y :=
  ((ZMod.natCast_eq_natCast_iff x y p25519).mp h).eq_of_lt_of_lt hx hy

theorem feInv_eq_pow (a : Nat) : feInv a = a ^ (p25519 - 2) % p25519 := by
  refine eq_of_natCast_eq (feInv_lt a) (Nat.mod_lt _ p25519_pos) ?_
  rw [natCast_feInv, ZMod.natCast_mod, Nat.cast_pow]

/-- Fermat's little theorem: a · a^(p − 2) = a^(p − 1) = 1. -/
theorem mul_pow_sub_two {p : Nat} [hp : Fact p.Prime] {a : ZMod p} (ha : a ≠ 0) : a * a ^ (p - 2) = 1 := by
  have hexp : p - 2 + 1 = p - 1 := by have := hp.out.two_le; omega
  rw [← pow_succ', hexp, ZMod.pow_card_sub_one_eq_one ha]

theorem feMul_feInv {a : Nat} (ha : 0 < a) (hlt : a < p25519) : feMul a (feInv a) = 1 := by
  have : Fact p25519.Prime := ⟨prime_p25519⟩
  have hne : (a : ZMod p25519) ≠ 0 := fun h => ha.ne' (eq_zero_of_natCast_eq_zero hlt h)
  refine eq_of_natCast_eq (feMul_lt _ _) one_lt_p25519 ?_
  rw [natCast_feMul, natCast_feInv, mul_pow_sub_two hne, Nat.cast_one]

theorem feInv_zero : feInv 0 = 0 := by
  refine eq_zero_of_natCast_eq_zero (feInv_lt 0) ?_
  rw [natCast_feInv, Nat.cast_zero, zero_pow (by decide)]

/-- Settles O47: the power is Fermat's, and p25519 is prime. -/
theorem inverseOfNonzero : Obligations.InverseOfNonzero :=
  ⟨feInv_eq_pow, fun _ => feMul_feInv, feInv_zero⟩

end Sys2Proof.Machine
end

section
/-! PROOFS (42_field.md R310 to R318). The field commands. -/

namespace Sys2Proof.Machine

theorem exec_fAdd_of_idle {s : State} (hb : isBusy s = false) :
    exec .fAdd s = .next (accept (.fAdd s.curve.fa s.curve.fb) s) :=
  congrArg Host.Outcome.next (unlessBusy_of_idle hb)

theorem exec_fSub_of_idle {s : State} (hb : isBusy s = false) :
    exec .fSub s = .next (accept (.fSub s.curve.fa s.curve.fb) s) :=
  congrArg Host.Outcome.next (unlessBusy_of_idle hb)

theorem exec_fMul_of_idle {s : State} (hb : isBusy s = false) :
    exec .fMul s = .next (accept (.fMul s.curve.fa s.curve.fb) s) :=
  congrArg Host.Outcome.next (unlessBusy_of_idle hb)

theorem exec_fSqr_of_idle {s : State} (hb : isBusy s = false) :
    exec .fSqr s = .next (accept (.fSqr s.curve.fa) s) :=
  congrArg Host.Outcome.next (unlessBusy_of_idle hb)

theorem exec_fInv_of_idle {s : State} (hb : isBusy s = false) :
    exec .fInv s = .next (accept (.fInv s.curve.fa) s) :=
  congrArg Host.Outcome.next (unlessBusy_of_idle hb)

/-- A job whose effect is to write FR, accepted and completed: FR, ERR = 0 and DONE = 1, and nothing else. -/
theorem complete_accept_of_writeFR {j : Job} {x : Nat} {s : State} (hj : j.onCurve = true)
    (heff : effectOf j s = writeFR x s) :
    complete (accept j s) =
      { s with curve := { s.curve with fr := fieldBytes x }, engine := engineDone s.engine } := by
  rw [complete_accept_of_onCurve hj, heff, writeFR]

/-- What the field commands share (42_field.md section 2): acceptance with the snapshot, then a completion that leaves the
field element `x` in FR and everything else as it was. -/
theorem exists_field_result {i : Instr} {j : Job} {x : Nat} {s : State} (hexec : exec i s = .next (accept j s))
    (hj : j.onCurve = true) (heff : effectOf j s = writeFR x s) (hx : x < p25519) :
    ∃ t u, exec i s = .next t ∧ u = complete t ∧
      t = { s with engine := engineAccepted j j.latency s.engine } ∧
      u = { s with curve := { s.curve with fr := u.curve.fr }, engine := engineDone s.engine } ∧
      u.curve.fr.toNat = x := by
  refine ⟨_, _, hexec, rfl, rfl, ?_, ?_⟩
  · rw [complete_accept_of_writeFR hj heff]
  · rw [complete_accept_of_writeFR hj heff, fieldBytes_toNat hx]

/-- Settles O42: the snapshot's two operands are reduced, and their sum is. -/
theorem fAddAdds : Obligations.FAddAdds :=
  ⟨soleWord_encode (i := .fAdd) (by decide), fun _ hb =>
    exists_field_result (exec_fAdd_of_idle hb) rfl rfl (feAdd_lt _ _)⟩

/-- Settles O43: the result is the remainder of the integer difference. -/
theorem fSubSubtracts : Obligations.FSubSubtracts := by
  refine ⟨soleWord_encode (i := .fSub) (by decide), fun s hb => ?_⟩
  obtain ⟨t, u, hexec, hu, ht, hframe, hfr⟩ :=
    exists_field_result (exec_fSub_of_idle hb) rfl rfl (feSub_lt (fieldOperand s.curve.fa) (fieldOperand s.curve.fb))
  refine ⟨t, u, hexec, hu, ht, hframe, ?_⟩
  rw [hfr, intCast_feSub]
  rfl

/-- Settles O44: as for the sum, with `feMul`. -/
theorem fMulMultiplies : Obligations.FMulMultiplies :=
  ⟨soleWord_encode (i := .fMul) (by decide), fun _ hb =>
    exists_field_result (exec_fMul_of_idle hb) rfl rfl (feMul_lt _ _)⟩

/-- Settles O45: the snapshot holds FA alone. -/
theorem fSqrSquares : Obligations.FSqrSquares :=
  ⟨soleWord_encode (i := .fSqr) (by decide), fun _ hb =>
    exists_field_result (exec_fSqr_of_idle hb) rfl rfl (feSqr_lt _)⟩

/-- Settles O46: repeated squaring gives the Fermat power, of zero as of any operand. -/
theorem fInvInverts : Obligations.FInvInverts := by
  refine ⟨soleWord_encode (i := .fInv) (by decide), fun s hb => ?_⟩
  obtain ⟨t, u, hexec, hu, ht, hframe, hfr⟩ :=
    exists_field_result (exec_fInv_of_idle hb) rfl rfl (feInv_lt (fieldOperand s.curve.fa))
  exact ⟨t, u, hexec, hu, ht, hframe, hfr.trans (feInv_eq_pow _)⟩

end Sys2Proof.Machine
end

section
/-! PROOFS (43_control.md R340 to R344). The control commands: each completes at issue, and a busy core drops it. -/

namespace Sys2Proof.Machine

theorem exec_nop_of_idle {s : State} (hb : isBusy s = false) : exec .nop s = .next (performNop s) :=
  congrArg Host.Outcome.next (unlessBusy_of_idle hb)

theorem exec_clrErr_of_idle {s : State} (hb : isBusy s = false) : exec .clrErr s = .next (performClrErr s) :=
  congrArg Host.Outcome.next (unlessBusy_of_idle hb)

/-- A drop sets the two sticky bits of the engine and leaves the rest of the machine (10_state.md R61). -/
theorem dropWrite_eq_engineDropped (s : State) : dropWrite s = { s with engine := engineDropped s.engine } :=
  State.eq_of_parts (dropWrite_poly s) (dropWrite_curve s) (dropWrite_engine s) (dropWrite_port s)

theorem exec_of_busy_eq_engineDropped {s : State} (hb : isBusy s = true) (i : Instr) :
    exec i s = .next { s with engine := engineDropped s.engine } := by
  rw [exec_of_busy hb, dropWrite_eq_engineDropped]

/-- Every field of STATUS is 0 at its reset value (10_state.md R35, R63). -/
theorem statusWord_of_atReset {s : State} (h : AtReset s) : statusWord s = 0 := by
  obtain ⟨hpoly, -, hengine⟩ := h
  rw [statusWord, isBusy, hpoly, hengine]
  rfl

/-- Neither IE nor DONE is set at reset (60_exceptions.md R410). -/
theorem irqLine_of_atReset {s : State} (h : AtReset s) : irqLine s = false := by
  obtain ⟨-, -, hengine⟩ := h
  rw [irqLine, hengine]
  rfl

/-- Settles O22: an idle core performs the NOP, a busy one drops the write. -/
theorem nopClearsErrOnly : Obligations.NopClearsErrOnly :=
  ⟨soleWord_encode (i := .nop) (by decide), fun _ =>
    ⟨exec_nop_of_idle, fun hb => exec_of_busy_eq_engineDropped hb .nop⟩⟩

/-- Settles O23: an idle core clears the three error fields, a busy one drops the write. -/
theorem clrErrClearsErrors : Obligations.ClrErrClearsErrors :=
  ⟨soleWord_encode (i := .clrErr) (by decide), fun _ =>
    ⟨exec_clrErr_of_idle, fun hb => exec_of_busy_eq_engineDropped hb .clrErr⟩⟩

/-- Settles O24: an idle core goes to `resetCore`, at the reset values; a busy one drops the write. -/
theorem sResetRestoresReset : Obligations.SResetRestoresReset := by
  refine ⟨soleWord_encode (i := .sReset) (by decide), fun s => ⟨fun hb => ?_, fun hb => ?_⟩⟩
  · have hreset : AtReset (resetCore s) := atReset_resetCore s
    exact ⟨resetCore s, exec_sReset hb, hreset, resetCore_port s, statusWord_of_atReset hreset,
      irqLine_of_atReset hreset⟩
  · exact exec_of_busy_eq_engineDropped hb .sReset

end Sys2Proof.Machine
end

section
/-! PROOFS (60_exceptions.md R401 to R404). The checks on a command word in their order, and what stops a step. -/

namespace Sys2Proof.Machine

/-! ### What stops a step (60_exceptions.md R404, 70_reset_and_hazards.md R500) -/

section Stops

variable {s : State}

theorem step_of_running (hr : s.port.inReset = false) : step s = runningEvent (nextEvent s) (takeEvent s) := by
  simp [step, portEvent, hr]

theorem step_of_held (hr : s.port.inReset = true) : step s = heldEvent (nextEvent s) (takeEvent s) := by
  simp [step, portEvent, hr]

/-- A running core takes every transaction that 20_memory.md R105 allows. -/
theorem exists_runningEvent_of_not_malformed {t : Transaction} (h : malformed t.target.1 t.target.2 = false)
    (s : State) : ∃ u, runningEvent (.bus t) s = .next u := by
  have hsel : selectReg t.target.1 t.target.2 ≠ none := by rw [Ne, selectReg_eq_none_iff, h]; decide
  obtain ⟨⟨row, k⟩, hrow⟩ := Option.ne_none_iff_exists'.mp hsel
  exact exists_runningEvent_of_selectReg hrow s

/-- An allowed event leaves a next state. -/
theorem runs_of_allowedEvent (h : allowedEvent s (nextEvent s) = true) : Runs s := by
  unfold Runs
  cases hr : s.port.inReset with
  | true =>
    rw [step_of_held hr]
    cases he : nextEvent s with
    | bus t => simp [he, allowedEvent, hr] at h
    | clock | elapse | resetAssert | resetRelease => exact ⟨_, rfl⟩
  | false =>
    rw [step_of_running hr]
    cases he : nextEvent s with
    | bus t =>
      have hm : malformed t.target.1 t.target.2 = false := by simpa [he, allowedEvent, hr] using h
      exact exists_runningEvent_of_not_malformed hm _
    | clock | elapse | resetAssert | resetRelease => exact ⟨_, rfl⟩

/-- An event that is not allowed is a transaction, and it stops the step with a fault. -/
theorem exists_fault_of_not_allowedEvent (h : allowedEvent s (nextEvent s) = false) : ∃ r, step s = .fault r := by
  cases he : nextEvent s with
  | clock | elapse | resetAssert | resetRelease => simp [he, allowedEvent] at h
  | bus t =>
    cases hr : s.port.inReset with
    | true => exact ⟨.transactionInReset, by rw [step_of_held hr, he]; rfl⟩
    | false =>
      have hm : malformed t.target.1 t.target.2 = true := by simpa [he, allowedEvent, hr] using h
      have hsel := (selectReg_eq_none_iff ..).mpr hm
      exact ⟨.busError t.target.1, by rw [step_of_running hr, he, runningEvent_of_selectReg_none hsel]⟩

end Stops

/-- Settles O7: an allowed event has a next state, every other ends in a fault. -/
theorem stepStopsOnlyOnBadTransactions : Obligations.StepStopsOnlyOnBadTransactions := by
  intro s
  cases h : allowedEvent s (nextEvent s) with
  | true =>
    obtain ⟨t, ht⟩ := runs_of_allowedEvent h
    exact ⟨iff_of_true rfl ⟨t, ht⟩, fun r => by rw [ht]; exact nofun⟩
  | false =>
    obtain ⟨f, hf⟩ := exists_fault_of_not_allowedEvent h
    refine ⟨iff_of_false Bool.false_ne_true ?_, fun r => by rw [hf]; exact nofun⟩
    rintro ⟨t, ht⟩
    rw [hf] at ht
    cases ht

/-! ### The checks on a command word (60_exceptions.md R402) -/

section Checks

variable {s : State}

/-- A rejection writes ERR, ERRS and DONE (60_exceptions.md R401). -/
theorem completeRejected_eq_engineRejected (code : ErrCode) (s : State) :
    completeRejected code s = { s with engine := engineRejected code s.engine } :=
  State.eq_of_parts (completeRejected_poly s code) (completeRejected_curve s code) (completeRejected_engine s code)
    (completeRejected_port s code)

/-- A write to CMD issues its word in the state where the write is answered. -/
theorem step_facing_cmdWrite (w : Word) (rest : List PortEvent) (s : State) :
    step (facingEvent (cmdWrite w) rest s) = issueWord w (answered (facingEvent (cmdWrite w) rest s)) :=
  step_of_write (facingEvent_inReset ..) (nextEvent_facingEvent s (cmdWrite w) rest) selectReg_cmd

theorem issueWord_of_busy_eq_engineDropped (hb : isBusy s = true) (w : Word) :
    issueWord w s = .next { s with engine := engineDropped s.engine } := by
  rw [issueWord_of_busy hb, dropWrite_eq_engineDropped]

theorem issueWord_of_illegal (hb : isBusy s = false) {w : Word} (hd : decode w = .illegal) :
    issueWord w s = .next { s with engine := engineRejected .illegal s.engine } := by
  rw [issueWord, hd, unlessBusy_of_idle hb, completeRejected_eq_engineRejected]

theorem issueWord_of_badLen (hb : isBusy s = false) {w : Word} {len : BitVec 5} (hd : decode w = .badLen len) :
    issueWord w s = .next { s with engine := engineRejected .len s.engine } := by
  obtain ⟨-, -, hlong, -⟩ := (decode_eq_badLen_iff w len).mp hd
  rw [issueWord_of_instr? (congrArg Decoded.instr? hd), exec_pAdd_of_long hb hlong,
    completeRejected_eq_engineRejected]

/-- The commands that need an open context (40_poly1305.md R215), by their opcodes. -/
theorem eq_pAdd_or_pFinish_of_opcode {i : Instr} (h : opcode i = 2 ∨ opcode i = 3) :
    (∃ len, i = .pAdd len) ∨ i = .pFinish := by
  cases i
  case pAdd len => exact .inl ⟨len, rfl⟩
  case pFinish => exact .inr rfl
  all_goals exact absurd h (by decide)

/-- A command that needs an open context is rejected without one. -/
theorem exec_of_no_context (hb : isBusy s = false) (ha : s.poly.pstate ≠ .active) {i : Instr}
    (hwf : i.wellFormed = true) (hi : opcode i = 2 ∨ opcode i = 3) :
    exec i s = .next { s with engine := engineRejected .state s.engine } := by
  rw [← completeRejected_eq_engineRejected]
  obtain ⟨len, rfl⟩ | rfl := eq_pAdd_or_pFinish_of_opcode hi
  · exact exec_pAdd_of_not_active hb ha ((wellFormed_iff _).mp hwf)
  · exact exec_pFinish_of_not_active hb ha

/-- From `s` to `t` no error was recorded: ERR is 0 or as before, and ERRS was not set. -/
def NoNewError (s t : State) : Prop :=
  (t.engine.err = .ok ∨ t.engine.err = s.engine.err) ∧ (t.engine.errs = true → s.engine.errs = true)

theorem NoNewError.accept (j : Job) (s : State) : NoNewError s (accept j s) := ⟨.inr rfl, id⟩

/-- A well-formed command with the context it needs is not rejected: it is accepted, or completes without an error. -/
theorem exec_noNewError (hb : isBusy s = false) {i : Instr} (hwf : i.wellFormed = true)
    (ha : opcode i = 2 ∨ opcode i = 3 → s.poly.pstate = .active) : ∃ t, exec i s = .next t ∧ NoNewError s t := by
  cases i with
  | nop => exact ⟨_, exec_nop_of_idle hb, .inl rfl, id⟩
  | clrErr => exact ⟨_, exec_clrErr_of_idle hb, .inl rfl, nofun⟩
  | sReset => exact ⟨_, exec_sReset hb, .inl rfl, nofun⟩
  | pInit => exact ⟨_, exec_pInit_of_idle hb, .accept _ s⟩
  | pAdd len => exact ⟨_, exec_pAdd_of_active hb (ha (.inl rfl)) ((wellFormed_iff _).mp hwf), .accept _ s⟩
  | pFinish => exact ⟨_, exec_pFinish_of_active hb (ha (.inr rfl)), .accept _ s⟩
  | xBase => exact ⟨_, exec_xBase_of_idle hb, .accept _ s⟩
  | xMul => exact ⟨_, exec_xMul_of_idle hb, .accept _ s⟩
  | fAdd => exact ⟨_, exec_fAdd_of_idle hb, .accept _ s⟩
  | fSub => exact ⟨_, exec_fSub_of_idle hb, .accept _ s⟩
  | fMul => exact ⟨_, exec_fMul_of_idle hb, .accept _ s⟩
  | fSqr => exact ⟨_, exec_fSqr_of_idle hb, .accept _ s⟩
  | fInv => exact ⟨_, exec_fInv_of_idle hb, .accept _ s⟩

end Checks

/-- A word that is not Illegal and not a P_ADD of more than 16 bytes decodes to a command of its opcode. -/
theorem exists_cmd_of_decode {w : Word} (hill : decode w ≠ .illegal)
    (hlen : ¬(w.toNat % 2 ^ 8 = 0x02 ∧ 16 < w.toNat / 2 ^ 8 % 2 ^ 5)) :
    ∃ i, decode w = .cmd i ∧ (opcode i).toNat = w.toNat % 2 ^ 8 := by
  obtain ⟨-, hbad, hcmd⟩ := decodeFollowsFields w
  cases hd : decode w with
  | illegal => exact absurd hd hill
  | badLen len =>
    obtain ⟨hop, hfield, hlong, -⟩ := (hbad len).mp hd
    exact absurd ⟨hop, hfield ▸ hlong⟩ hlen
  | cmd i => exact ⟨i, rfl, (hcmd i hd).1⟩

/-- A word that is not Illegal but a P_ADD of more than 16 bytes is BadLen. -/
theorem exists_badLen_of_decode {w : Word} (hill : decode w ≠ .illegal)
    (hlen : w.toNat % 2 ^ 8 = 0x02 ∧ 16 < w.toNat / 2 ^ 8 % 2 ^ 5) : ∃ len, decode w = .badLen len := by
  obtain ⟨hop, hlong⟩ := hlen
  have hrsv : rsvField w = 0 := by
    by_contra h
    exact hill ((decode_eq_illegal_iff w).mpr (.inr (.inl h)))
  refine ⟨lenField w, (decode_eq_badLen_iff ..).mpr ⟨(opField_eq_iff ..).mpr hop, rfl, ?_, hrsv⟩⟩
  rwa [lenField_toNat]

/-- Settles O5: each check by what the word decodes to. -/
theorem commandChecksInOrder : Obligations.CommandChecksInOrder := by
  intro s w rest illegal long needsContext after out
  have hillegal : decode w = .illegal ↔ illegal := (decodeFollowsFields w).1
  let u : State := answered (facingEvent (cmdWrite w) rest s)
  have hout : out = issueWord w u := step_facing_cmdWrite w rest s
  have hcmd (hi : ¬illegal) (hl : ¬long) :
      ∃ i, decode w = .cmd i ∧ i.wellFormed = true ∧ (opcode i = 2 ∨ opcode i = 3 ↔ needsContext) := by
    obtain ⟨i, hd, hop⟩ := exists_cmd_of_decode (mt hillegal.mp hi) hl
    refine ⟨i, hd, wellFormed_of_decode hd, ?_⟩
    rw [← BitVec.toNat_inj, ← BitVec.toNat_inj, hop]
    rfl
  refine ⟨fun hb => ?_, fun hb hi => ?_, fun hb hi hl => ?_, fun hb hi hl hc ha => ?_, fun hb hi hl ha => ?_⟩ <;>
    rw [hout]
  · exact issueWord_of_busy_eq_engineDropped (s := u) hb w
  · exact issueWord_of_illegal (s := u) hb (hillegal.mpr hi)
  · obtain ⟨len, hd⟩ := exists_badLen_of_decode (mt hillegal.mp hi) hl
    exact issueWord_of_badLen (s := u) hb hd
  · obtain ⟨i, hd, hwf, hop⟩ := hcmd hi hl
    rw [issueWord_of_instr? (congrArg Decoded.instr? hd)]
    exact exec_of_no_context (s := u) hb ha hwf (hop.mpr hc)
  · obtain ⟨i, hd, hwf, hop⟩ := hcmd hi hl
    rw [issueWord_of_instr? (congrArg Decoded.instr? hd)]
    exact exec_noNewError (s := u) hb hwf fun h => ha (hop.mp h)

end Sys2Proof.Machine
end

section
/-! PROOFS (60_exceptions.md R410, R411). What one step can do to IE and DONE, said once; from it the interrupt source
and the interrupt output. -/

namespace Sys2Proof.Machine

/-! ### The steps that complete a command (60_exceptions.md R411) -/

/-- A command completes in the step from `s` to `t`: the one in flight, or a word other than SRESET at its issue. -/
def Completes (s t : State) : Prop :=
  (∃ f, completesNext s f) ∨ ∃ w, issuesNext w s ∧ w ≠ encode .sReset ∧ isBusy t = false

/-- From `s` to `t` DONE was set and IE left as it was: what a completion does to the two interrupt bits
(30_encoding.md R163, 60_exceptions.md R401). -/
structure SetsDone (s t : State) : Prop where
  ie : t.engine.ie = s.engine.ie
  done : t.engine.done = true

section Completion

variable {s t : State} {w : Word}

theorem Completes.of_issue (hi : issuesNext w s) (hd : decode w ≠ .cmd .sReset) (hb : isBusy t = false) :
    Completes s t :=
  .inr ⟨w, hi, fun h => hd (h ▸ decode_encode rfl), hb⟩

theorem setsDone_of_completesNext {f : InFlight} (h : completesNext s f) (hs : step s = .next t) : SetsDone s t := by
  rw [step_of_completesNext h] at hs
  cases hs
  have he : (complete (takeEvent s)).engine = engineDone s.engine := complete_engine_of_some (s := takeEvent s) h.2.1
  exact ⟨by rw [he]; rfl, by rw [he]; rfl⟩

/-- An instruction other than SRESET that leaves the core idle has completed. -/
theorem Issued.setsDone {i : Instr} (h : Issued i s t) (hi : i ≠ .sReset) (hb : isBusy t = false) : SetsDone s t := by
  cases h with
  | rejected | nop | clrErr => exact ⟨rfl, rfl⟩
  | sReset hreset => exact absurd hreset hi
  | accepted => cases hb

/-- Only an Illegal word names no instruction (30_encoding.md R145). -/
theorem eq_illegal_of_instr?_eq_none {d : Decoded} (h : d.instr? = none) : d = .illegal := by
  cases d with
  | illegal => rfl
  | cmd | badLen => cases h

/-- What an issued word does: it is Illegal and rejected, or it is one of the ways of `Issued`. -/
theorem issued_cases (hi : issuesNext w s) (hs : step s = .next t) :
    (decode w = .illegal ∧ t = completeRejected .illegal (answered s)) ∨
      ∃ i, (decode w).instr? = some i ∧ Issued i (answered s) t := by
  have hb : isBusy s = false := hi.2.1
  rw [step_of_issuesNext hi] at hs
  cases hd : (decode w).instr? with
  | none =>
    have hill : decode w = .illegal := eq_illegal_of_instr?_eq_none hd
    rw [issueWord, hill] at hs
    exact .inl ⟨hill, (Host.Outcome.next.inj hs).symm.trans (unlessBusy_of_idle (s := answered s) hb)⟩
  | some i =>
    rw [issueWord_of_instr? hd] at hs
    obtain ⟨u, hu, ⟨hbusy, -⟩ | ⟨-, hissued⟩⟩ := exec_cases i (answered s)
    · exact absurd (hb.symm.trans hbusy) Bool.false_ne_true
    · obtain rfl : u = t := Host.Outcome.next.inj (hu.symm.trans hs)
      exact .inr ⟨i, rfl, hissued⟩

theorem setsDone_of_issue (hi : issuesNext w s) (hw : w ≠ encode .sReset) (hb : isBusy t = false)
    (hs : step s = .next t) : SetsDone s t := by
  obtain ⟨-, rfl⟩ | ⟨i, hd, hissued⟩ := issued_cases hi hs
  · exact ⟨rfl, rfl⟩
  · have hne : i ≠ .sReset := by
      rintro rfl
      exact hw (eq_encode_of_instr? hd nofun)
    obtain ⟨hie, hdone⟩ := hissued.setsDone hne hb
    exact ⟨hie, hdone⟩

theorem Completes.setsDone (h : Completes s t) (hs : step s = .next t) : SetsDone s t := by
  obtain ⟨f, hf⟩ | ⟨w, hi, hw, hb⟩ := h
  · exact setsDone_of_completesNext hf hs
  · exact setsDone_of_issue hi hw hb hs

end Completion

/-! ### What one step can do to IE and DONE -/

/-- The cases of a step, for the two bits that make the interrupt output. -/
inductive InterruptCase (s t : State) : Prop
  | kept (hie : t.engine.ie = s.engine.ie) (hdone : t.engine.done = s.engine.done)
  | completed (hc : Completes s t)
  | reset (hr : resetsNext s)
  | ctrl (w : Word) (he : nextEvent s = .bus (.write 0x00C .word w)) (hie : t.engine.ie = w.getLsbD 0)
      (hdone : t.engine.done = s.engine.done)
  | intstat (w : Word) (he : nextEvent s = .bus (.write 0x010 .word w)) (hie : t.engine.ie = s.engine.ie)
      (hdone : t.engine.done = if w.getLsbD 0 then false else s.engine.done)

section Interrupt

variable {s t : State}

theorem step_interrupt_cases (hs : step s = .next t) : InterruptCase s t := by
  cases step_cases hs with
  | held hr => exact .reset (.inr (.inr hr))
  | released hr => exact .reset (.inr (.inr hr))
  | asserted _ he => exact .reset (.inr (.inl he))
  | ctrl _ w he => exact .ctrl w he rfl rfl
  | intstat _ w he => exact .intstat w he (by simp) (by simp)
  | completed f hc => exact .completed (.inl ⟨f, hc⟩)
  | illegal w hi hd => exact .completed (.of_issue hi (by rw [hd]; exact nofun) hi.2.1)
  | issued w i _ hi hd ht =>
    have completed (hne : i ≠ .sReset) (hb : isBusy t = false) : InterruptCase s t :=
      .completed (.of_issue hi (fun h => hne (by rw [h] at hd; cases hd; rfl)) hb)
    cases ht with
    | rejected _ _ hne => exact completed hne hi.2.1
    | nop h => exact completed (by rw [h]; exact nofun) hi.2.1
    | clrErr h => exact completed (by rw [h]; exact nofun) hi.2.1
    | accepted => exact .kept rfl rfl
    | sReset h =>
      subst h
      rw [eq_encode_of_instr? hd nofun] at hi
      exact .reset (.inl hi)
  | _ => exact .kept rfl rfl

/-- A transaction has a next state only while `rst_n` is high (70_reset_and_hazards.md R500). -/
theorem inReset_of_step_bus {tr : Transaction} (he : nextEvent s = .bus tr) (hs : step s = .next t) :
    s.port.inReset = false := by
  cases hr : s.port.inReset with
  | false => rfl
  | true =>
    have hfault : step s = .fault .transactionInReset := by rw [step_of_held hr, he]; rfl
    rw [hfault] at hs
    cases hs

theorem eq_of_step_ctrlWrite {w : Word} (he : nextEvent s = .bus (.write 0x00C .word w)) (hs : step s = .next t) :
    t = writeCtrl w (answered s) := by
  rw [step_of_write (inReset_of_step_bus he hs) he selectReg_ctrl] at hs
  exact (Host.Outcome.next.inj hs).symm

theorem eq_of_step_intstatWrite {w : Word} (he : nextEvent s = .bus (.write 0x010 .word w)) (hs : step s = .next t) :
    t = writeIntstat w (answered s) := by
  rw [step_of_write (inReset_of_step_bus he hs) he selectReg_intstat] at hs
  exact (Host.Outcome.next.inj hs).symm

/-- DONE rises by a completion only (60_exceptions.md R411). -/
theorem completes_of_done_rises (hs : step s = .next t) (h : s.engine.done = false) (h' : t.engine.done = true) :
    Completes s t := by
  cases step_interrupt_cases hs with
  | completed hc => exact hc
  | kept _ hdone | ctrl _ _ _ hdone =>
    rw [hdone, h] at h'
    cases h'
  | intstat w _ _ hdone =>
    rw [hdone, h, ite_self] at h'
    cases h'
  | reset hr =>
    obtain ⟨-, -, he⟩ := atReset_of_resetsNext hr hs
    rw [he] at h'
    cases h'

end Interrupt

/-- Settles O20: by what a step can do to DONE. -/
theorem doneRisesOnlyOnCompletion : Obligations.DoneRisesOnlyOnCompletion := by
  intro s t hs
  refine ⟨completes_of_done_rises hs, fun f hf => (setsDone_of_completesNext hf hs).done,
    fun w hi hw hb => (setsDone_of_issue hi hw hb hs).done, fun hr hd => ?_, fun hi => ?_⟩
  · rw [step_of_dropsNextWrite hr hd] at hs
    cases hs
    rfl
  · obtain ⟨-, -, he⟩ := atReset_of_resetsNext (.inl hi) hs
    rw [he]
    rfl

/-! ### The interrupt output (60_exceptions.md R410) -/

theorem irqLine_eq_true_iff (s : State) : irqLine s = true ↔ s.engine.ie = true ∧ s.engine.done = true :=
  Bool.and_eq_true_iff

theorem irqLine_eq_false_iff (s : State) : irqLine s = false ↔ s.engine.ie = false ∨ s.engine.done = false :=
  Bool.and_eq_false_iff

/-- The next event is a CTRL write that sets IE to `ie`. -/
def WritesCtrl (ie : Bool) (s : State) : Prop :=
  ∃ w : Word, nextEvent s = .bus (.write 0x00C .word w) ∧ w.getLsbD 0 = ie

/-- The next event is a reset or an INTSTAT write of 1. -/
def ClearsDone (s : State) : Prop :=
  resetsNext s ∨ ∃ w : Word, nextEvent s = .bus (.write 0x010 .word w) ∧ w.getLsbD 0 = true

section Line

variable {s t : State}

theorem WritesCtrl.step {ie : Bool} (h : WritesCtrl ie s) (hs : step s = .next t) :
    t.engine.ie = ie ∧ t.engine.done = s.engine.done := by
  obtain ⟨w, he, hw⟩ := h
  rw [eq_of_step_ctrlWrite he hs]
  exact ⟨hw, rfl⟩

theorem ClearsDone.step (h : ClearsDone s) (hs : step s = .next t) : t.engine.done = false := by
  obtain hr | ⟨w, he, hw⟩ := h
  · obtain ⟨-, -, hengine⟩ := atReset_of_resetsNext hr hs
    rw [hengine]
    rfl
  · rw [eq_of_step_intstatWrite he hs, writeIntstat_engine, hw]
    rfl

/-- Why the output rises: a completion while IE is set, or IE set while DONE is. -/
theorem irq_rises_cases (hs : step s = .next t) (h : irqLine s = false) (h' : irqLine t = true) :
    (s.engine.ie = true ∧ Completes s t) ∨ (s.engine.done = true ∧ WritesCtrl true s) := by
  obtain ⟨hie', hdone'⟩ := (irqLine_eq_true_iff t).mp h'
  have low : ¬(s.engine.ie = true ∧ s.engine.done = true) := by
    rw [← irqLine_eq_true_iff, h]
    exact Bool.false_ne_true
  cases step_interrupt_cases hs with
  | kept hie hdone => exact absurd ⟨hie ▸ hie', hdone ▸ hdone'⟩ low
  | completed hc => exact .inl ⟨(hc.setsDone hs).ie ▸ hie', hc⟩
  | reset hr => exact absurd (hdone'.symm.trans (ClearsDone.step (.inl hr) hs)) Bool.noConfusion
  | ctrl w he hie hdone => exact .inr ⟨hdone ▸ hdone', w, he, hie ▸ hie'⟩
  | intstat w _ hie hdone =>
    rw [hdone] at hdone'
    split at hdone'
    · cases hdone'
    · exact absurd ⟨hie ▸ hie', hdone'⟩ low

/-- Why the output falls: DONE is cleared, or IE is. -/
theorem irq_falls_cases (hs : step s = .next t) (h : irqLine s = true) (h' : irqLine t = false) :
    ClearsDone s ∨ WritesCtrl false s := by
  obtain ⟨hie, hdone⟩ := (irqLine_eq_true_iff s).mp h
  have low : ¬(t.engine.ie = true ∧ t.engine.done = true) := by
    rw [← irqLine_eq_true_iff, h']
    exact Bool.false_ne_true
  cases step_interrupt_cases hs with
  | kept hie' hdone' => exact absurd ⟨hie'.trans hie, hdone'.trans hdone⟩ low
  | completed hc =>
    obtain ⟨hie', hdone'⟩ := hc.setsDone hs
    exact absurd ⟨hie'.trans hie, hdone'⟩ low
  | reset hr => exact .inl (.inl hr)
  | ctrl w he hie' hdone' =>
    exact .inr ⟨w, he, Bool.eq_false_iff.mpr fun hw => low ⟨hie'.trans hw, hdone'.trans hdone⟩⟩
  | intstat w he hie' hdone' =>
    refine .inl (.inr ⟨w, he, ?_⟩)
    by_contra hw
    rw [if_neg hw] at hdone'
    exact low ⟨hie'.trans hie, hdone'.trans hdone⟩

end Line

/-- Settles O21: the two bits after each event that can move them, and conversely why the output moved. -/
theorem irqFollowsEnableAndDone : Obligations.IrqFollowsEnableAndDone := by
  refine ⟨irqLine_eq_true_iff, fun s t hs => ⟨fun hie hc => ?_, fun hdone hw => ?_, irq_rises_cases hs, fun h => ?_,
    irq_falls_cases hs⟩⟩
  · obtain ⟨hie', hdone'⟩ := Completes.setsDone hc hs
    exact (irqLine_eq_true_iff t).mpr ⟨hie'.trans hie, hdone'⟩
  · obtain ⟨hie', hdone'⟩ := WritesCtrl.step hw hs
    exact (irqLine_eq_true_iff t).mpr ⟨hie', hdone'.trans hdone⟩
  · obtain hc | hw := h
    · exact (irqLine_eq_false_iff t).mpr (.inr (ClearsDone.step hc hs))
    · exact (irqLine_eq_false_iff t).mpr (.inl (WritesCtrl.step hw hs).1)

end Sys2Proof.Machine
end

section
/-! PROOFS (70_reset_and_hazards.md R500 to R520). Clock cycles towards a completion, and hardware reset. -/

namespace Sys2Proof.Machine

/-! ### Counting down to a completion (70_reset_and_hazards.md R520, 10_state.md R60) -/

/-- `f` is in flight in a running core, and at the port stands one clock cycle for each it still needs, then `rest`. -/
structure CountsDown (f : InFlight) (rest : List PortEvent) (s : State) : Prop where
  inflight : s.engine.inflight = some f
  running : s.port.inReset = false
  pending : s.port.pending = List.replicate f.remaining .clock ++ rest

/-- `s` with `f` in flight and `n` cycles left to it, as many clock cycles waiting and no transaction answered. -/
def cyclesLeft (n : Nat) (f : InFlight) (rest : List PortEvent) (s : State) : State :=
  { s with
    engine := { s.engine with inflight := some { f with remaining := n } }
    port := { s.port with pending := List.replicate n .clock ++ rest, response := none } }

/-- Completion depends on the snapshot in flight, not on the cycles left to it (30_encoding.md R163). -/
theorem complete_setRemaining {s : State} {f : InFlight} (hf : s.engine.inflight = some f) (n : Nat) :
    complete { s with engine := { s.engine with inflight := some { f with remaining := n } } } = complete s := by
  rw [complete_of_some hf, complete_of_some rfl]
  refine State.eq_of_parts (effectOf_poly_congr f.job rfl) (effectOf_curve_congr f.job rfl) ?_ ?_
  · simp
  · simp

section Counting

variable {s : State} {f : InFlight} {rest : List PortEvent} {n : Nat}

theorem countsDown_cyclesLeft (hr : s.port.inReset = false) (n : Nat) (f : InFlight) (rest : List PortEvent) :
    CountsDown { f with remaining := n } rest (cyclesLeft n f rest s) := ⟨rfl, hr, rfl⟩

theorem CountsDown.pending_eq_cons (h : CountsDown f rest s) (hf : f.remaining = n + 1) :
    s.port.pending = .clock :: (List.replicate n .clock ++ rest) := by
  rw [h.pending, hf, List.replicate_succ, List.cons_append]

theorem CountsDown.nextEvent_eq (h : CountsDown f rest s) (hf : f.remaining = n + 1) : nextEvent s = .clock := by
  rw [nextEvent, h.pending_eq_cons hf]
  rfl

theorem CountsDown.takeEvent_eq (h : CountsDown f rest s) (hf : f.remaining = n + 1) :
    takeEvent s =
      { s with port := { s.port with pending := List.replicate n .clock ++ rest, response := none } } := by
  rw [takeEvent, h.pending_eq_cons hf]
  rfl

/-- A cycle before the last one. -/
theorem CountsDown.step_tick (h : CountsDown f rest s) (hn : 0 < n) (hf : f.remaining = n + 1) :
    step s = .next (cyclesLeft n f rest s) := by
  have htick := clockTick_of_more (s := takeEvent s) h.inflight (by omega)
  rw [step_of_running h.running, h.nextEvent_eq hf, runningEvent, htick, h.takeEvent_eq hf, hf]
  rfl

/-- The last cycle. -/
theorem CountsDown.step_last (h : CountsDown f rest s) (hf : f.remaining = 1) :
    step s = .next (complete { s with port := { s.port with pending := rest, response := none } }) := by
  have hlast : completesNext s f := ⟨h.running, h.inflight, .inr ⟨h.nextEvent_eq hf, hf.le⟩⟩
  rw [step_of_completesNext hlast, h.takeEvent_eq hf]
  rfl

/-- Any number of cycles, at least one, before the last. -/
theorem CountsDown.runSteps_ticks {k : Nat} (h : CountsDown f rest s) (hn : 0 < n) (hf : f.remaining = n + (k + 1)) :
    runSteps (k + 1) s = .next (cyclesLeft n f rest s) := by
  induction k generalizing n with
  | zero => exact runSteps_succ_of_next (h.step_tick hn hf)
  | succ k ih =>
    have hrun := ih (n := n + 1) n.succ_pos (by omega)
    rw [runSteps_add (b := 1) hrun]
    exact runSteps_succ_of_next ((countsDown_cyclesLeft h.running (n + 1) f rest).step_tick hn rfl)

/-- All the cycles that are left. -/
theorem CountsDown.runSteps_all (h : CountsDown f rest s) (hf : f.remaining = n + 1) :
    runSteps (n + 1) s = .next (complete { s with port := { s.port with pending := rest, response := none } }) := by
  cases n with
  | zero => exact runSteps_succ_of_next (h.step_last hf)
  | succ n =>
    have hrun := h.runSteps_ticks Nat.one_pos (hf.trans (Nat.add_comm ..))
    have hlast := (countsDown_cyclesLeft h.running 1 f rest).step_last rfl
    rw [runSteps_add (b := 1) hrun, runSteps_succ_of_next hlast, runSteps_zero]
    exact congrArg _ (complete_setRemaining
      (s := { s with port := { s.port with pending := rest, response := none } }) h.inflight 1)

end Counting

/-- Settles O49: by induction on the cycles before the last, which completes. -/
theorem clockCyclesComplete : Obligations.ClockCyclesComplete := by
  intro s f rest hf hpos hr hp
  have h : CountsDown f rest s := ⟨hf, hr, hp⟩
  refine ⟨fun k hk hlt => ?_, ?_⟩
  · obtain ⟨k, rfl⟩ := Nat.exists_eq_add_of_le' hk
    exact h.runSteps_ticks (Nat.sub_pos_of_lt hlt) (Nat.sub_add_cancel hlt.le).symm
  · obtain ⟨n, hn⟩ := Nat.exists_eq_add_of_le' hpos
    rw [hn]
    exact h.runSteps_all hn

/-! ### Hardware reset (70_reset_and_hazards.md R500, R502) -/

section HardwareReset

variable {s : State}

/-- Asserting rst_n resets the core, also when it is low already. -/
theorem step_of_resetAssert (he : nextEvent s = .resetAssert) : step s = .next (assertReset (takeEvent s)) := by
  cases hr : s.port.inReset with
  | false =>
    rw [step_of_running hr, he]
    rfl
  | true =>
    rw [step_of_held hr, he]
    exact congrArg Host.Outcome.next (State.eq_of_parts rfl rfl rfl (by simp [hr]))

theorem step_held_of_bus {tr : Transaction} (hr : s.port.inReset = true) (he : nextEvent s = .bus tr) :
    step s = .fault .transactionInReset := by
  rw [step_of_held hr, he]
  rfl

theorem step_held_of_time (hr : s.port.inReset = true) (he : nextEvent s = .clock ∨ nextEvent s = .elapse) :
    step s = .next (resetCore (takeEvent s)) := by
  obtain he | he := he
  · rw [step_of_held hr, he]
    rfl
  · rw [step_of_held hr, he]
    rfl

theorem step_held_of_release (hr : s.port.inReset = true) (he : nextEvent s = .resetRelease) :
    step s = .next (releaseReset (takeEvent s)) := by
  rw [step_of_held hr, he]
  rfl

end HardwareReset

/-- Settles O52: every event but a transaction goes through `resetCore`, and rst_n is as the event leaves it. -/
theorem hardwareResetHoldsAndReleases : Obligations.HardwareResetHoldsAndReleases := by
  intro s
  refine ⟨fun he => ?_, fun hr => ⟨fun tr => step_held_of_bus hr, fun he => ?_, fun he => ?_⟩⟩
  · exact ⟨_, step_of_resetAssert he, atReset_resetCore _, rfl⟩
  · exact ⟨_, step_held_of_time hr he, atReset_resetCore _, hr⟩
  · exact ⟨_, step_held_of_release hr he, atReset_resetCore _, rfl⟩

end Sys2Proof.Machine
end
